-- ==== Sys2Proof/Word.lean ====
section
/-! DEFINITION. The words of the part and their plainest arithmetic. Multi-byte numbers cross every port
as bytes (R213); inside the part an amount, a count or an index is a natural number with a stated limit. -/
namespace Sys2Proof

/-- One byte as it crosses a port. -/
abbrev Byte := BitVec 8

/-- One aligned 4-byte word of the control window (R179). -/
abbrev Word := BitVec 32

/-- Add and stop at a limit: a count that "stops at" a value (R56, R76, R93, R129). -/
def satAdd (limit a b : Nat) : Nat := min limit (a + b)

end Sys2Proof
end

