-- ==== Sys2Proof/Config.lean ====
section
/-! DEFINITION. What the part is made with (capacities, limits, thresholds of the spec) and the values the
spec leaves open. An `opaque` constant has no body: nothing in Lean can evaluate it. -/
namespace Sys2Proof.Config

/-- Largest amount of units: balance, held, reserved, yields (R2, R33, R84). -/
def maxAmount : Nat := 16777215
/-- Largest lifetime count (R2). -/
def maxLifetime : Nat := 4294967295
/-- Largest value of the minute counter (R158). -/
def maxMinute : Nat := 4294967295
/-- Entries of the account table (R1). -/
def accountCount : Nat := 512
/-- Entries of the group policy table (R27). -/
def groupCount : Nat := 8
/-- Entries of the job table (R32). -/
def jobCount : Nat := 32
/-- Entries of the in-flight sheet table (R58). -/
def sheetCount : Nat := 4
/-- Stations (R84). -/
def stationCount : Nat := 5
/-- Key slots (R134). -/
def slotCount : Nat := 48
/-- Band descriptors (R144). -/
def descriptorCount : Nat := 4096
/-- Extents of image memory (R144). -/
def extentCount : Nat := 16384
/-- Bytes of one extent (R144). -/
def extentBytes : Nat := 65536
/-- Bytes of the stream FIFO (R166). -/
def fifoBytes : Nat := 16384
/-- Bytes of the command area and of the response area (R179). -/
def areaBytes : Nat := 128
/-- Bytes of the control window (08, the control port). -/
def windowBytes : Nat := 4096
/-- Lines of a full band (R140, R144). -/
def bandLines : Nat := 64
/-- Most lines of a page (R141). -/
def pageLines : Nat := 10240
/-- Seconds after a grant at which a sheet lapses (R60, R78). -/
def lapseSeconds : Nat := 30
/-- Write-back threshold in dose units (R101, R115). -/
def writeBackThreshold : Nat := 20000

/-- The family proof key in the part's one-time memory (R99): written when the part is made, read by no
command. FREE: nothing constrains it (log 7). -/
opaque familyProofKey : BitVec 256

/-- The derivation of a cartridge's proof key from the family proof key and the serial (R99).
FREE: a fixed function of its inputs and nothing more (log 7). -/
opaque proofKey (family : BitVec 256) (serial : BitVec 64) : BitVec 256

/-- The 32-byte digest a proof expects, under a derived key, over the nonce, the serial and the stored
remaining yield (R99). FREE: a fixed function of its inputs and nothing more (log 7). -/
opaque proofDigest (key : BitVec 256) (nonce : BitVec 128) (serial : BitVec 64) (stored : Nat) : BitVec 256

/-- Whether the n-th NV image write that a reset or a loss of supply cut off left its entry with the new
contents (true) or the old ones (false). R203 and R210 allow either. FREE (log 10). -/
opaque cutOffWriteLands (n : Nat) : Bool

end Sys2Proof.Config
end

