-- ==== Sys2Proof/Syntax.lean ====
section
/-! DEFINITION. The commands and events of the part: one constructor of `Instr` for each row of
spec/opcode_table.json, with the operands that reach the part with it. -/
namespace Sys2Proof

/-- The five consumable stations, in the order of the spec (00, Orders). -/
inductive Station where
  | k | c | m | y | drum
  deriving DecidableEq, Repr

/-- One value for each station. -/
structure PerStation (α : Type) where
  k : α
  c : α
  m : α
  y : α
  drum : α
  deriving DecidableEq, Repr

/-- Which way a data line is shorted (R89). -/
inductive ShortKind where
  | low | high
  deriving DecidableEq, Repr

/-- The two causes of a warm reset (R205). -/
inductive ResetCause where
  | pin | supplyDip
  deriving DecidableEq, Repr

/-- A command record as the host writes it before GO (08, 8.7): the body length field and the body bytes
written from byte 4 of the command area on. Body bytes not written stay as they stand there (log 1). -/
structure Request where
  length : BitVec 16
  body : List Byte
  deriving DecidableEq, Repr

/-- The body of a FEED_ASK frame (R61, R216), each field at its width on the link. -/
structure FeedAsk where
  sheet : BitVec 16
  tag : Byte
  sides : Byte
  size : Byte
  class1 : Byte
  class2 : Byte
  mask : Byte
  deriving DecidableEq, Repr

/-- The body of a DELIVERED frame, and of a JAMMED frame but for its imaged flag (R73, R216). -/
structure SheetReport where
  sheet : BitVec 16
  tag : Byte
  doses1 : PerStation (BitVec 16)
  doses2 : PerStation (BitVec 16)
  deriving DecidableEq, Repr

/-- How the image memory controller ends the read of a band (R164): with an uncorrectable error, or with
data. `changed` lists the byte offsets at which the data returned differs from what was stored, with the
byte returned there; it is empty when the memory kept its contents (log 9). -/
inductive BandRead where
  | uncorrectable
  | returned (changed : List (Nat × Byte))
  deriving DecidableEq, Repr

/-- The commands and events of the part, one constructor for each row of the opcode table, in its order. -/
inductive Instr where
  /-- IDENTIFY, R189. -/
  | identify (r : Request)
  /-- ADD_ACCOUNT, R12. -/
  | addAccount (r : Request)
  /-- CREDIT_ACCOUNT, R13. -/
  | creditAccount (r : Request)
  /-- SET_ACCOUNT_GROUP, R14. -/
  | setAccountGroup (r : Request)
  /-- SET_CREDENTIAL, R15. -/
  | setCredential (r : Request)
  /-- SUSPEND_ACCOUNT, R19. -/
  | suspendAccount (r : Request)
  /-- RESUME_ACCOUNT, R21. -/
  | resumeAccount (r : Request)
  /-- RETIRE_ACCOUNT, R24. -/
  | retireAccount (r : Request)
  /-- READ_ACCOUNT, R16. -/
  | readAccount (r : Request)
  /-- FIND_ACCOUNT, R17. -/
  | findAccount (r : Request)
  /-- CLEAR_COUNTERS, R18. -/
  | clearCounters (r : Request)
  /-- SET_GROUP_POLICY, R28. -/
  | setGroupPolicy (r : Request)
  /-- READ_GROUP_POLICY, R28. -/
  | readGroupPolicy (r : Request)
  /-- OPEN_JOB, R37. -/
  | openJob (r : Request)
  /-- EXTEND_JOB, R40. -/
  | extendJob (r : Request)
  /-- CLOSE_JOB, R46. -/
  | closeJob (r : Request)
  /-- ABORT_JOB, R47. -/
  | abortJob (r : Request)
  /-- READ_JOB, R51. -/
  | readJob (r : Request)
  /-- DISMISS_JOB, R52. -/
  | dismissJob (r : Request)
  /-- READ_SHEETS, R81. -/
  | readSheets (r : Request)
  /-- READ_STATION, R107. -/
  | readStation (r : Request)
  /-- RECHECK_STATION, R105. -/
  | recheckStation (r : Request)
  /-- SET_GRACE, R116. -/
  | setGrace (r : Request)
  /-- WRITE_BACK_YIELD, R122. -/
  | writeBackYield (r : Request)
  /-- SET_ROTATION, R125. -/
  | setRotation (r : Request)
  /-- READ_ROTATION, R126. -/
  | readRotation (r : Request)
  /-- READ_CAPTURE, R151. -/
  | readCapture (r : Request)
  /-- RELEASE_SCAN, R163. -/
  | releaseScan (r : Request)
  /-- CANCEL_RELEASE, R170. -/
  | cancelRelease (r : Request)
  /-- DELETE_SCAN, R173. -/
  | deleteScan (r : Request)
  /-- LIST_HELD, R174. -/
  | listHeld (r : Request)
  /-- READ_SCAN, R175. -/
  | readScan (r : Request)
  /-- READ_NOTICES, R195. -/
  | readNotices (r : Request)
  /-- CLEAR_NOTICES, R196. -/
  | clearNotices (r : Request)
  /-- SET_NOTICE_ENABLE, R197. -/
  | setNoticeEnable (r : Request)
  /-- READ_FAULT, R201. -/
  | readFault (r : Request)
  /-- CLEAR_FAULT, R201. -/
  | clearFault (r : Request)
  /-- PRESERVE_ACCOUNTS, R206. -/
  | preserveAccounts (r : Request)
  /-- ENTER_STANDBY, R211. -/
  | enterStandby (r : Request)
  /-- EXIT_STANDBY, R212. -/
  | exitStandby (r : Request)
  /-- GO_COLLISION, R182: a write of the control/status word with GO set. -/
  | goCollision
  /-- COMMAND_AREA_WRITE, R182: bytes written from an offset of the command area on. -/
  | commandAreaWrite (offset : Nat) (bytes : List Byte)
  /-- WINDOW_WRITE, R179: bytes written from an offset of the window on, in one access. -/
  | windowWrite (offset : Nat) (bytes : List Byte)
  /-- STREAM_PORT_READ, R188: an aligned 4-byte read of the stream port. -/
  | streamPortRead
  /-- KEY_DRAW, R135: the draw of a scan key ends with this key (log 4). -/
  | keyDraw (key : BitVec 256)
  /-- NONCE_DRAW, R100: the draw of a station's PROOF nonce ends with this nonce (log 4). -/
  | nonceDraw (st : Station) (nonce : BitVec 128)
  /-- STOP_REQUEST, R44: the job unit takes the stop request issued for this tag (log 13). -/
  | stopRequest (tag : Byte)
  /-- FEED_ASK, R62: the bytes of this frame arrive on the sheet link (R55). -/
  | feedAsk (ask : FeedAsk)
  /-- DELIVERED, R75: the bytes of this frame arrive on the sheet link (R55). -/
  | delivered (report : SheetReport)
  /-- JAMMED, R77, with its imaged flag: the bytes of this frame arrive on the sheet link (R55). -/
  | jammed (imaged : Byte) (report : SheetReport)
  /-- BAD_FRAME, R55 and R56: these bytes arrive on the sheet link, the bytes of a bad frame among them (log 28). -/
  | badFrame (bytes : List Byte)
  /-- FRAME_GAP_TIMEOUT, R56: these bytes arrive on the sheet link, and more than 50 microseconds pass after the
  last of them; with no byte, after the last that came before (log 28). -/
  | frameGapTimeout (bytes : List Byte)
  /-- SHEET_LAPSE, R78, of the sheet with this number. -/
  | sheetLapse (sheet : BitVec 16)
  /-- ROTATION_INTERVAL, R124. -/
  | rotationInterval
  /-- PRESENCE_APPEARS, R87. -/
  | presenceAppears (st : Station)
  /-- PRESENCE_LOST, R88. -/
  | presenceLost (st : Station)
  /-- SHORT_REPORTED, R89. -/
  | shortReported (st : Station) (kind : ShortKind)
  /-- SHORT_CLEARS, R89; `lineOpen` says that the line, with a cartridge present, does not rise. -/
  | shortClears (st : Station) (lineOpen : Bool)
  /-- LINE_OPEN_CHANGE, R90: to OPEN (true) or from OPEN (false). -/
  | lineOpenChange (st : Station) (toOpen : Bool)
  /-- EXCHANGE_WAIT_EXPIRED, R93. -/
  | exchangeWaitExpired (st : Station)
  /-- IDENT_READ_ANSWER, R98: the bytes an IDENT_READ attempt reads. -/
  | identReadAnswer (st : Station) (bytes : List Byte)
  /-- PROOF_ANSWER, R101: the bytes a PROOF attempt reads. -/
  | proofAnswer (st : Station) (bytes : List Byte)
  /-- YIELD_WRITE_ANSWER, R119: the bytes a YIELD_WRITE attempt reads. -/
  | yieldWriteAnswer (st : Station) (bytes : List Byte)
  /-- PAGE_BEGIN, R138. -/
  | pageBegin
  /-- LINE, R140: the pixel bytes of one line, closed by the line-end mark. -/
  | line (pixels : List Byte)
  /-- LINE_LIMIT, R141. -/
  | lineLimit
  /-- PAGE_END, R142. -/
  | pageEnd
  /-- SCAN_ABORT, R149. -/
  | scanAbort
  /-- BAND_WRITE_END, R147. -/
  | bandWriteEnd
  /-- MINUTE_TICK, R158. -/
  | minuteTick
  /-- EXPIRY_WALK, R160. -/
  | expiryWalk
  /-- BAND_READ_END, R164, with how the read ended. -/
  | bandReadEnd (outcome : BandRead)
  /-- STREAM_MOVE, R165, of at most so many bytes (log 24). -/
  | streamMove (count : Nat)
  /-- NV_WRITE_END, R207: the write completes (true) or fails (false, R209). -/
  | nvWriteEnd (completes : Bool)
  /-- RETAINED_SUPPLY_LOST, R204. -/
  | retainedSupplyLost
  /-- COLD_START, R204. -/
  | coldStart
  /-- WARM_RESET, R205, with its cause. -/
  | warmReset (cause : ResetCause)
  /-- HEALTH_TEST_END, R132: the test passes (true) or fails (false). -/
  | healthTestEnd (passes : Bool)
  /-- SHEET_TIMER_SECOND, R60, of the sheet with this number. -/
  | sheetTimerSecond (sheet : BitVec 16)
  /-- RESET_CAUSE_ENDS, R205, with the cause that ends. -/
  | resetCauseEnds (cause : ResetCause)
  /-- UNDEFINED_COMMAND_CODE, R183: a command record with this code, and GO. -/
  | undefinedCommandCode (code : BitVec 16) (r : Request)
  deriving DecidableEq, Repr

end Sys2Proof
end

