-- ==== Sys2Proof/WellFormed.lean ====
section
/-! DEFINITION. What can be sent to the part: the checks on a command's operands that its port imposes.
`exec` has a meaning for ill-formed operands too (bytes outside a region are discarded, R179); a sender
that keeps these checks never relies on it. -/
namespace Sys2Proof

/-- The command codes the manual defines (08, 8.6; 09; 10). -/
def definedCodes : List Nat :=
  [1, 16, 17, 18, 19, 20, 21, 22, 23, 24, 25, 26, 27] ++
  [32, 33, 34, 35, 36, 37, 40, 48, 49, 50, 51, 52, 53, 56] ++
  [64, 65, 66, 67, 68, 72, 73, 74, 76, 77, 80, 84, 85]

/-- The body written fits the command area's 124 body bytes (R213). -/
def Request.wellFormed (r : Request) : Bool := decide (r.body.length ≤ 124)

/-- Bytes announced by a frame's length byte, with start, kind, length and CRC (R216). -/
def announcedLength (bytes : List Byte) : Nat := (bytes.getD 2 0).toNat + 5

/-- A whole frame as the receiver gathers it: start byte, then as many bytes as the length byte says (R55). -/
def gathered (bytes : List Byte) : Bool :=
  bytes.head? == some 0xA5#8 && decide (3 ≤ bytes.length) && bytes.length == announcedLength bytes

/-- The first bytes of a frame that is not complete (R55). -/
def partlyGathered (bytes : List Byte) : Bool :=
  bytes.head? == some 0xA5#8 && (decide (bytes.length < 3) || decide (bytes.length < announcedLength bytes))

/-- The operands of a command are such as its port can carry. -/
def Instr.wellFormed : Instr → Bool
  | .identify r | .addAccount r | .creditAccount r | .setAccountGroup r | .setCredential r | .suspendAccount r
  | .resumeAccount r | .retireAccount r | .readAccount r | .findAccount r | .clearCounters r | .setGroupPolicy r
  | .readGroupPolicy r | .openJob r | .extendJob r | .closeJob r | .abortJob r | .readJob r | .dismissJob r
  | .readSheets r | .readStation r | .recheckStation r | .setGrace r | .writeBackYield r | .setRotation r
  | .readRotation r | .readCapture r | .releaseScan r | .cancelRelease r | .deleteScan r | .listHeld r
  | .readScan r | .readNotices r | .clearNotices r | .setNoticeEnable r | .readFault r | .clearFault r
  | .preserveAccounts r | .enterStandby r | .exitStandby r => r.wellFormed
  | .undefinedCommandCode code r => r.wellFormed && !definedCodes.contains code.toNat
  | .commandAreaWrite offset bytes => !bytes.isEmpty && decide (offset + bytes.length ≤ Config.areaBytes)
  | .windowWrite offset bytes => !bytes.isEmpty && decide (offset + bytes.length ≤ Config.windowBytes)
  | .stopRequest tag => tag != 0#8
  | .badFrame bytes => !bytes.isEmpty
  | .identReadAnswer _ bytes => decide (bytes.length ≤ 17)
  | .proofAnswer _ bytes => decide (bytes.length ≤ 37)
  | .yieldWriteAnswer _ bytes => decide (bytes.length ≤ 6)
  | .streamMove count => decide (0 < count)
  | .goCollision | .streamPortRead | .keyDraw _ | .nonceDraw _ _ | .feedAsk _ | .delivered _ | .jammed _ _
  | .frameGapTimeout _ | .sheetLapse _ | .rotationInterval | .presenceAppears _ | .presenceLost _
  | .shortReported _ _ | .shortClears _ _ | .lineOpenChange _ _ | .exchangeWaitExpired _ | .pageBegin | .line _
  | .lineLimit | .pageEnd | .scanAbort | .bandWriteEnd | .minuteTick | .expiryWalk | .bandReadEnd _
  | .nvWriteEnd _ | .retainedSupplyLost | .coldStart | .warmReset _ | .healthTestEnd _ | .sheetTimerSecond _
  | .resetCauseEnds _ => true

end Sys2Proof
end

