-- ==== Sys2Proof/Machine/Table.lean ====
section
/-! DEFINITION. Sparse tables and byte memories as lists in one canonical form: keys strictly rising, and no
listed value equal to what an unlisted key reads as. -/
namespace Sys2Proof.Machine

/-- A table keyed by number: entries in strictly rising order of their keys. -/
abbrev Table (α : Type) := List (Nat × α)

namespace Table
variable {α β : Type}

/-- The entry listed under a key. -/
def find : Table α → Nat → Option α
  | [], _ => none
  | (j, v) :: rest, k => if j = k then some v else find rest k

/-- List a value under a key, in place of any value listed there. -/
def put : Table α → Nat → α → Table α
  | [], k, v => [(k, v)]
  | (j, w) :: rest, k, v =>
    if k < j then (k, v) :: (j, w) :: rest
    else if k = j then (k, v) :: rest
    else (j, w) :: put rest k v

/-- Take a key off the list. -/
def drop : Table α → Nat → Table α
  | [], _ => []
  | (j, w) :: rest, k => if j = k then drop rest k else (j, w) :: drop rest k

/-- What a key reads as where an unlisted key reads as `d`. -/
def read (d : α) (t : Table α) (k : Nat) : α := (find t k).getD d

/-- Write a value under a key, keeping the canonical form for the default `d`. -/
def write [DecidableEq α] (d : α) (t : Table α) (k : Nat) (v : α) : Table α :=
  if v = d then drop t k else put t k v

/-- Change every listed value, keeping the canonical form for the default `d`. -/
def mapValues [DecidableEq α] (d : α) (f : α → α) : Table α → Table α
  | [] => []
  | (k, v) :: rest => if f v = d then mapValues d f rest else (k, f v) :: mapValues d f rest

/-- The keys rise strictly, all of them at or above `low`. -/
def rising : Nat → Table α → Bool
  | _, [] => true
  | low, (k, _) :: rest => decide (low ≤ k) && rising (k + 1) rest

/-- The canonical form of a table whose unlisted keys hold nothing. -/
def wf (t : Table α) : Bool := rising 0 t

/-- The canonical form of a table whose unlisted keys read as `d`. -/
def wfDefault [DecidableEq α] (d : α) (t : Table α) : Bool := rising 0 t && t.all (fun e => e.2 != d)

/-- The lowest key from `k` on, among `fuel` of them, of which `p` holds. -/
def lowest (p : Nat → Bool) : (fuel k : Nat) → Option Nat
  | 0, _ => none
  | fuel + 1, k => if p k then some k else lowest p fuel (k + 1)

/-- The first listed entry of which `p` holds, with its key. -/
def search (p : α → Bool) : Table α → Option (Nat × α)
  | [] => none
  | (k, v) :: rest => if p v then some (k, v) else search p rest

end Table

/-- A byte memory: cells at rising addresses, none of them 0 (an unlisted address reads as 0, log 9). -/
abbrev Memory := List Host.Cell

namespace Memory

/-- The canonical form: addresses strictly rising, no cell equal to what an unlisted address reads as. -/
def wf (m : Memory) : Bool := Table.wfDefault (0 : Byte) m

/-- Read the byte at an address. -/
def read (m : Memory) (a : Nat) : Byte := Table.read (0 : Byte) m a

/-- Write the byte at an address. -/
def write (m : Memory) (a : Nat) (b : Byte) : Memory := Table.write (0 : Byte) m a b

/-- Read `n` bytes from an address on. -/
def readBytes (m : Memory) : (a n : Nat) → List Byte
  | _, 0 => []
  | a, n + 1 => read m a :: readBytes m (a + 1) n

/-- Write bytes from an address on. -/
def writeBytes (m : Memory) : (a : Nat) → List Byte → Memory
  | _, [] => m
  | a, b :: rest => writeBytes (write m a b) (a + 1) rest

end Memory

end Sys2Proof.Machine
end

