-- ==== Sys2Proof/Machine/State.lean ====
section
/-! DEFINITION. The state of the part, unit by unit as the outline of 00_scope.md names them, all of it plain
data, and its value right after reset. -/
namespace Sys2Proof

/-- One value for all five stations. -/
def PerStation.all {α : Type} (v : α) : PerStation α := ⟨v, v, v, v, v⟩

end Sys2Proof

namespace Sys2Proof.Machine

/-! ### Values kept per class -/

/-- Units or counts in the three classes, in the order MONO, COLOUR, SCAN. -/
structure Amounts where
  mono : Nat
  colour : Nat
  scan : Nat
  deriving DecidableEq, Repr

/-- The three classes. -/
inductive UnitClass where
  | mono | colour | scan
  deriving DecidableEq, Repr

/-- The class of a printed side (R58). -/
inductive SideClass where
  | mono | colour
  deriving DecidableEq, Repr

/-! ### Account unit (R1 to R31) -/

/-- Why an account is SUSPENDED (R2). -/
inductive SuspendReason where
  | byHost | lockout
  deriving DecidableEq, Repr

/-- The life-cycle state of an account; the suspend reason is present only in SUSPENDED (R2). -/
inductive AccountState where
  | free | active
  | suspended (why : SuspendReason)
  | retiring
  deriving DecidableEq, Repr

/-- The digest of a credential. R22 takes it as a function under which different credentials, their lengths
counted, have different digests; the digest is named here by the credential it is of (log 6). -/
structure CredentialDigest where
  ofBytes : List Byte
  deriving DecidableEq, Repr

/-- An account record (R2). -/
structure Account where
  state : AccountState
  number : Option Nat
  group : Nat
  unlimited : Bool
  balance : Amounts
  held : Amounts
  lifetime : Amounts
  countSaturated : Bool
  creditClipped : Bool
  digest : Option CredentialDigest
  failed : Nat
  openJobs : Nat
  heldScans : Nat
  preserved : Bool
  deriving DecidableEq, Repr

/-- No units in any class. -/
def Amounts.zero : Amounts := ⟨0, 0, 0⟩

/-- A FREE entry, with the values of R2's last column. -/
def Account.free (preserved : Bool) : Account :=
  { state := .free, number := none, group := 0, unlimited := false, balance := .zero, held := .zero,
    lifetime := .zero, countSaturated := false, creditClipped := false, digest := none, failed := 0,
    openJobs := 0, heldScans := 0, preserved := preserved }

/-- What an account entry not listed reads as: FREE and preserved (R29, a blank image). -/
def Account.blank : Account := Account.free true

/-- One entry of the group policy table (R27). -/
structure GroupPolicy where
  colourAllowed : Bool
  scanAllowed : Bool
  maxOpenJobs : Nat
  maxHeldScans : Nat
  maxHoldMinutes : Nat
  deriving DecidableEq, Repr

/-- The group policy of a blank image (R29). -/
def GroupPolicy.default : GroupPolicy := ⟨true, true, 4, 8, 240⟩

/-- The account unit: the account table (an unlisted index is `Account.blank`), the group policy table (an
unlisted group is `GroupPolicy.default`) and that table's preserved flag. -/
structure AccountUnit where
  accounts : Table Account
  groups : Table GroupPolicy
  groupsPreserved : Bool
  deriving DecidableEq, Repr

/-! ### Job unit (R32 to R54) -/

/-- PRINT or SCAN (R33). -/
inductive JobKind where
  | print | scan
  deriving DecidableEq, Repr

/-- The life-cycle state of a job (R33). -/
inductive JobState where
  | ready | active | stopped | closing | settled
  deriving DecidableEq, Repr

/-- Why a job was STOPPED (R33). -/
inductive StopReason where
  | station | accountSuspended | accountRetiring | imageFull | scannerAbort
  deriving DecidableEq, Repr

/-- Which command ended a job (R33). -/
inductive EndKind where
  | close | abort
  deriving DecidableEq, Repr

/-- The format of a scanned line (R33, R129). -/
structure LineFormat where
  pixels : Nat
  bytesPerPixel : Nat
  deriving DecidableEq, Repr

/-- A job entry that holds a job (R33). -/
structure Job where
  tag : Nat
  kind : JobKind
  owner : Option Nat
  ownerNumber : Nat
  state : JobState
  stopReason : Option StopReason
  endKind : Option EndKind
  reserved : Amounts
  committed : Amounts
  charged : Amounts
  stationsUsed : PerStation Bool
  delivered : Nat
  jammed : Nat
  lapsed : Nat
  pagesCaptured : Nat
  slot : Option Nat
  format : Option LineFormat
  holdRequest : Nat
  deriving DecidableEq, Repr

/-- The job unit: the job table by entry number (an entry not listed is empty), the last-assigned tag, and the
stop requests the account unit has issued that have not been taken yet, oldest first (R20, log 13). -/
structure JobUnit where
  jobs : Table Job
  lastTag : Nat
  stopRequests : List (Nat × StopReason)
  deriving DecidableEq, Repr

/-! ### Sheet link (R55 to R83) -/

/-- An entry of the in-flight sheet table, which is keyed by sheet number (R58). -/
structure Sheet where
  tag : Nat
  sides : Nat
  size : Nat
  class1 : SideClass
  class2 : Option SideClass
  mask : PerStation Bool
  committedMono : Nat
  committedColour : Nat
  seconds : Nat
  deriving DecidableEq, Repr

/-- The sheet link's receiver: IDLE between frames, or gathering the bytes of one, its start byte among them
(R55). -/
inductive Receiver where
  | idle
  | gathering (bytes : List Byte)
  deriving DecidableEq, Repr

/-- The sheet link: in-flight table by sheet number, the two counts, the receiver, and the answers produced
since the last reset, oldest first (R57, log 17). -/
structure SheetLink where
  sheets : Table Sheet
  badFrames : Nat
  strayReports : Nat
  receiver : Receiver
  answers : List (List Byte)
  deriving DecidableEq, Repr

/-! ### Station unit (R84 to R128) -/

/-- The life-cycle state of a station (R84). -/
inductive StationState where
  | empty | probing | challenging | genuine | rechecking | grace | exhausted | rejected | unreachable | lineFault
  deriving DecidableEq, Repr

/-- Why a station is REJECTED (R84). -/
inductive RejectReason where
  | wrongStation | failedProof
  deriving DecidableEq, Repr

/-- The condition of a data line (R84). -/
inductive LineCondition where
  | normal | lineOpen | shortLow | shortHigh
  deriving DecidableEq, Repr

/-- The three kinds of exchange (R91). -/
inductive ExchangeKind where
  | identRead | proof | yieldWrite
  deriving DecidableEq, Repr

/-- What an exchange in flight fixes for all its attempts: a PROOF its nonce, absent until it is drawn (R100,
log 5), a YIELD_WRITE its value, toggle and base (R117). -/
inductive Exchange where
  | identRead
  | proof (nonce : Option (BitVec 128))
  | yieldWrite (value : Nat) (toggle : Bool) (base : Nat)
  deriving DecidableEq, Repr

/-- The exchange in flight with its attempt number, 1 to 3 (R84). -/
structure InFlight where
  exchange : Exchange
  attempt : Nat
  deriving DecidableEq, Repr

/-- The cartridge of the retained serial: serial and rated yield are present together (R84). -/
structure Cartridge where
  serial : BitVec 64
  rated : Nat
  deriving DecidableEq, Repr

/-- An entry of the station table (R84). -/
structure StationRecord where
  state : StationState
  rejectReason : Option RejectReason
  presence : Bool
  condition : LineCondition
  cartridge : Option Cartridge
  colour : Option Station
  remaining : Nat
  written : Nat
  unwritten : Nat
  toggle : Bool
  graceAllowance : Nat
  graceUsed : Nat
  lowRaised : Bool
  linkErrors : Nat
  inFlight : Option InFlight
  queue : List ExchangeKind
  deriving DecidableEq, Repr

/-- The re-check rotation (R123); a slot is a station or NONE. -/
structure Rotation where
  slots : List (Option Station)
  count : Nat
  interval : Nat
  pointer : Nat
  counter : Nat
  deriving DecidableEq, Repr

/-- The station unit. -/
structure StationUnit where
  stations : PerStation StationRecord
  rotation : Rotation
  deriving DecidableEq, Repr

/-! ### Capture unit (R129 to R154) -/

/-- The phase of the capture port (R129). -/
inductive CapturePhase where
  | unbound | waiting | receiving | finishing
  deriving DecidableEq, Repr

/-- The page in capture: its number, its lines so far, its bands handed off so far (R129). -/
structure Page where
  number : Nat
  lines : Nat
  bands : Nat
  deriving DecidableEq, Repr

/-- A filling band store: the lines it holds and their bytes in order (R145). -/
structure BandStore where
  lines : Nat
  bytes : List Byte
  deriving DecidableEq, Repr

/-- A handed-off band store: the descriptor its band took and its bytes (R145, R146). -/
structure HandedOff where
  descriptor : Nat
  bytes : List Byte
  deriving DecidableEq, Repr

/-- A band descriptor that is on a list (R144); the integrity tag is present when the band is written. -/
structure Descriptor where
  page : Nat
  band : Nat
  lines : Nat
  length : Nat
  firstExtent : Nat
  extentCount : Nat
  tag : Option (BitVec 128)
  deriving DecidableEq, Repr

/-- What the data lane carries: whole lines and the three control messages (R130, R218). -/
inductive LaneMessage where
  | line (pixels : List Byte)
  | pageBegin
  | pageEnd
  | scanAbort
  deriving DecidableEq, Repr

/-- The capture unit: the port record (R129), the band builder (R145: `filling` is absent while both stores are
handed off; `handedOff` is oldest first), the descriptor pool (a descriptor not listed is free), the extent
map as the rising list of owned extents (R144), the status lane messages produced since the last reset,
oldest first (R130, log 17), and what the scanner holds back on the data lane, oldest first: a line that came
with the ready indication off, and what follows it (R145, log 29). -/
structure CaptureUnit where
  phase : CapturePhase
  boundTag : Option Nat
  boundSlot : Option Nat
  format : Option LineFormat
  page : Option Page
  discarded : Nat
  filling : Option BandStore
  handedOff : List HandedOff
  descriptors : Table Descriptor
  extents : List Nat
  status : List (List Byte)
  heldBack : List LaneMessage
  deriving DecidableEq, Repr

/-! ### Hold unit (R155 to R178) -/

/-- The life-cycle state of a key slot (R134). -/
inductive SlotState where
  | empty | capturing | held | releasing
  deriving DecidableEq, Repr

/-- The hold and expiry minutes of a held scan (R134, R155). -/
structure HoldTimes where
  held : Nat
  expiry : Nat
  deriving DecidableEq, Repr

/-- The progress of a release: band position, byte offset and bytes remaining (R134, R163). -/
structure Release where
  position : Nat
  offset : Nat
  remaining : Nat
  deriving DecidableEq, Repr

/-- A key slot (R134). -/
structure KeySlot where
  state : SlotState
  owner : Option Nat
  jobTag : Option Nat
  key : BitVec 256
  pages : Nat
  bands : List Nat
  totalBytes : Nat
  times : Option HoldTimes
  damaged : Bool
  expiryDue : Bool
  release : Option Release
  deriving DecidableEq, Repr

/-- An EMPTY slot, its key zeroized, with the values of R134's last column. -/
def KeySlot.blank : KeySlot :=
  { state := .empty, owner := none, jobTag := none, key := 0, pages := 0, bands := [], totalBytes := 0,
    times := none, damaged := false, expiryDue := false, release := none }

/-- The phase of the release streamer (R164). -/
inductive StreamerPhase where
  | idle | reading | moving | draining
  deriving DecidableEq, Repr

/-- The hold unit: key slot table (an unlisted slot is EMPTY), hold list, minute counter, the expiry walk still to
be made for ticks that fell in a warm reset (R158, log 14), release streamer with its band buffer, stream FIFO. -/
structure HoldUnit where
  slots : Table KeySlot
  holdList : List Nat
  minute : Nat
  walkDue : Bool
  streamer : StreamerPhase
  bandBuffer : List Byte
  fifo : List Byte
  deriving DecidableEq, Repr

/-! ### Random source (R132, R133) -/

/-- The health of the random source (R132). -/
inductive Health where
  | healthy | unhealthy
  deriving DecidableEq, Repr

/-- Who draws: the hold unit a scan key, a station a nonce (R133). -/
inductive DrawClient where
  | key
  | nonce (st : Station)
  deriving DecidableEq, Repr

/-- What a draw returns: a scan key, or a proof nonce (R133). -/
inductive DrawOutput where
  | key (value : BitVec 256)
  | nonce (value : BitVec 128)
  deriving DecidableEq, Repr

/-- The random source: its health, the draws asked for and not ended, the first in progress (log 5), and every
output returned so far, the latest first. The last is the model's record, not the part's: it says which outputs
no later draw returns (R133, log 4). -/
structure RandomSource where
  health : Health
  draws : List DrawClient
  returned : List DrawOutput
  deriving DecidableEq, Repr

/-! ### Notice unit (R192 to R202) -/

/-- One word for each notice group, in the order of the spec (09, 9.2; R214). -/
structure PerGroup where
  account : BitVec 32
  job : BitVec 32
  sheet : BitVec 32
  station : BitVec 32
  scan : BitVec 32
  deriving DecidableEq, Repr

/-- The four fault kinds (R198). -/
inductive FaultKind where
  | nvWriteFailed | bandIntegrity | imageMemoryError | keygenFailed
  deriving DecidableEq, Repr

/-- A captured fault: kind and minute, and the particulars its kind names (R198). -/
structure FaultRecord where
  kind : FaultKind
  minute : Nat
  account : Option Nat
  slot : Option Nat
  band : Option Nat
  deriving DecidableEq, Repr

/-- The notice unit: pending and enable sets, the fault capture (`fault` present is captured yes) with its MORE
flag, and how many interrupts have been sent (the model's own count, log 17). -/
structure NoticeUnit where
  pending : PerGroup
  enabled : PerGroup
  fault : Option FaultRecord
  more : Bool
  interrupts : Nat
  deriving DecidableEq, Repr

/-! ### Retention unit (R203 to R212) -/

/-- The retained-domain supply state (R204). -/
inductive SupplyState where
  | holding | lost
  deriving DecidableEq, Repr

/-- RUN or STANDBY (R211). -/
inductive PowerState where
  | run | standby
  deriving DecidableEq, Repr

/-- The last reset kind (R204, R205). -/
inductive ResetKind where
  | cold | pin | supplyDip
  deriving DecidableEq, Repr

/-- The fields of an account that the NV image holds (R203); `available` is balance plus held. -/
structure NvAccount where
  state : AccountState
  number : Option Nat
  group : Nat
  unlimited : Bool
  available : Amounts
  lifetime : Amounts
  countSaturated : Bool
  creditClipped : Bool
  digest : Option CredentialDigest
  deriving DecidableEq, Repr

/-- Where the preserve walk stands (R206). -/
inductive WalkPosition where
  | groups
  | account (index : Nat)
  deriving DecidableEq, Repr

/-- The values a write of the NV image took at its start (R207). -/
inductive NvValues where
  | groups (policies : Table GroupPolicy)
  | account (values : NvAccount)
  deriving DecidableEq, Repr

/-- A preserve walk in flight (R206): `writing` is present while the write at the position is in progress. -/
structure Walk where
  position : WalkPosition
  writing : Option NvValues
  stale : Bool
  dirty : Bool
  deriving DecidableEq, Repr

/-- A reset in progress: a cold start in its health test, or a warm reset with the causes that still hold and
the cause that arose last; with none holding, its health test runs (R204, R205). -/
inductive ResetProgress where
  | none
  | cold
  | warm (pin : Bool) (dip : Bool) (last : ResetCause)
  deriving DecidableEq, Repr

/-- The retention unit; an NV account entry not listed, and an absent group part, have written mark no (R203). -/
structure RetentionUnit where
  supply : SupplyState
  nvAccounts : Table NvAccount
  nvGroups : Option (Table GroupPolicy)
  walk : Option Walk
  power : PowerState
  lastReset : ResetKind
  reset : ResetProgress
  deriving DecidableEq, Repr

/-! ### Control port and image memory -/

/-- The phase of the command cycle (R180). -/
inductive CommandPhase where
  | idle | busy | done | accepted
  deriving DecidableEq, Repr

/-- The control port: phase, COLLISION, the two areas as bytes by offset, the tag of the job whose OPEN_JOB
waits for its key (R39, R184, log 20), and the word the last stream port read returned (log 17). -/
structure ControlPort where
  phase : CommandPhase
  collision : Bool
  commandArea : Memory
  responseArea : Memory
  opening : Option Nat
  streamWord : Word
  deriving DecidableEq, Repr

/-- Image memory and its controller's self-refresh state (00, the part in outline; R211). -/
structure ImageMemory where
  cells : Memory
  selfRefresh : Bool
  deriving DecidableEq, Repr

/-- A station line as it physically is, which the line monitor senses (R86, log 12). -/
structure LineInput where
  presence : Bool
  condition : LineCondition
  deriving DecidableEq, Repr

/-! ### The whole state -/

/-- The state of the part, the physical station lines, the count of free values used (log 10), and the queue
of events not yet taken, first in, first out. -/
structure State where
  controlPort : ControlPort
  accountUnit : AccountUnit
  jobUnit : JobUnit
  sheetLink : SheetLink
  stationUnit : StationUnit
  captureUnit : CaptureUnit
  holdUnit : HoldUnit
  randomSource : RandomSource
  noticeUnit : NoticeUnit
  retentionUnit : RetentionUnit
  imageMemory : ImageMemory
  lines : PerStation LineInput
  freeCount : Nat
  pending : List Instr
  deriving DecidableEq, Repr

/-- Why the machine would stop with a fault. The spec gives the part no condition in which it stops (its own
faults are records of the notice unit, R198), so there is no such reason: safe, since no step answers one. -/
inductive Fault where
  deriving DecidableEq, Repr

/-- Why the model would refuse a command. -/
inductive Refusal where
  /-- Raised only by an arm of `exec` whose row has no meaning yet, under the row's mnemonic. Safe: nothing is
  said about the row. No arm of this model raises it. -/
  | notModelled (mnemonic : String)
  deriving DecidableEq, Repr

/-- A station at a cold start (R108). -/
def StationRecord.cold : StationRecord :=
  { state := .empty, rejectReason := none, presence := false, condition := .normal, cartridge := none,
    colour := none, remaining := 0, written := 0, unwritten := 0, toggle := false, graceAllowance := 0,
    graceUsed := 0, lowRaised := false, linkErrors := 0, inFlight := none, queue := [] }

/-- The rotation's defaults (R123). -/
def Rotation.cold : Rotation :=
  { slots := [some .k, some .c, some .m, some .y, some .drum] ++ List.replicate 11 none,
    count := 5, interval := 50, pointer := 0, counter := 0 }

/-- No notice of any group. -/
def PerGroup.none : PerGroup := ⟨0, 0, 0, 0, 0⟩

/-- The control port when a reset ends (R179). -/
def ControlPort.afterReset : ControlPort :=
  { phase := .idle, collision := false, commandArea := [], responseArea := [], opening := none, streamWord := 0 }

/-- The sheet link after a reset (R82). -/
def SheetLink.afterReset : SheetLink :=
  { sheets := [], badFrames := 0, strayReports := 0, receiver := .idle, answers := [] }

/-- The job unit after a reset (R53). -/
def JobUnit.afterReset : JobUnit := { jobs := [], lastTag := 0, stopRequests := [] }

/-- An empty filling band store. -/
def BandStore.blank : BandStore := ⟨0, []⟩

/-- The part right after reset: the end of a cold start with a blank NV image whose health test passed, with
no cartridge seated (log 11, log 12). -/
def State.reset : State :=
  { controlPort := .afterReset
    accountUnit := { accounts := [], groups := [], groupsPreserved := true }
    jobUnit := .afterReset
    sheetLink := .afterReset
    stationUnit := { stations := .all .cold, rotation := .cold }
    captureUnit :=
      { phase := .unbound, boundTag := none, boundSlot := none, format := none, page := none, discarded := 0,
        filling := some .blank, handedOff := [], descriptors := [], extents := [], status := [], heldBack := [] }
    holdUnit :=
      { slots := [], holdList := [], minute := 0, walkDue := false, streamer := .idle, bandBuffer := [], fifo := [] }
    randomSource := { health := .healthy, draws := [], returned := [] }
    noticeUnit := { pending := .none, enabled := .none, fault := none, more := false, interrupts := 0 }
    retentionUnit :=
      { supply := .holding, nvAccounts := [], nvGroups := none, walk := none, power := .run, lastReset := .cold,
        reset := .none }
    imageMemory := { cells := [], selfRefresh := false }
    lines := .all ⟨false, .normal⟩
    freeCount := 0
    pending := [] }

end Sys2Proof.Machine
end

