-- ==== Sys2Proof/Machine/Flags.lean ====
section
/-! DEFINITION. The notice unit's flags: notices with their groups and bits, summaries, interrupt edges, and
the fault capture (R192 to R199, R214). -/
namespace Sys2Proof.Machine

/-- The five notice groups, in order (09, 9.1). -/
inductive NoticeGroup where
  | account | job | sheet | station | scan
  deriving DecidableEq, Repr

/-- The nineteen notices, in the order of the table of 09, 9.1. -/
inductive Notice where
  | lockout | preserveDone | preserveDirty
  | jobSettled | jobStopped | jobLimit
  | sheetLapsed | strayReport | sheetLinkBad
  | stationChanged | yieldLow | writeBackDone | writeBackFailed
  | pageRefused | imageFull | scanHeld | scanExpired | releaseDone | releaseEnded
  deriving DecidableEq, Repr

/-- The group of a notice (09, 9.1). -/
def Notice.group : Notice → NoticeGroup
  | .lockout | .preserveDone | .preserveDirty => .account
  | .jobSettled | .jobStopped | .jobLimit => .job
  | .sheetLapsed | .strayReport | .sheetLinkBad => .sheet
  | .stationChanged | .yieldLow | .writeBackDone | .writeBackFailed => .station
  | .pageRefused | .imageFull | .scanHeld | .scanExpired | .releaseDone | .releaseEnded => .scan

/-- The notice's place from the top of its group's list, its bit in the group's word (R214). -/
def Notice.bit : Notice → Nat
  | .lockout => 0 | .preserveDone => 1 | .preserveDirty => 2
  | .jobSettled => 0 | .jobStopped => 1 | .jobLimit => 2
  | .sheetLapsed => 0 | .strayReport => 1 | .sheetLinkBad => 2
  | .stationChanged => 0 | .yieldLow => 1 | .writeBackDone => 2 | .writeBackFailed => 3
  | .pageRefused => 0 | .imageFull => 1 | .scanHeld => 2 | .scanExpired => 3 | .releaseDone => 4
  | .releaseEnded => 5

/-- The word of a group. -/
def PerGroup.get (p : PerGroup) : NoticeGroup → BitVec 32
  | .account => p.account | .job => p.job | .sheet => p.sheet | .station => p.station | .scan => p.scan

/-- Replace the word of a group. -/
def PerGroup.set (p : PerGroup) (g : NoticeGroup) (w : BitVec 32) : PerGroup :=
  match g with
  | .account => { p with account := w }
  | .job => { p with job := w }
  | .sheet => { p with sheet := w }
  | .station => { p with station := w }
  | .scan => { p with scan := w }

/-- Combine two notice sets word by word. -/
def PerGroup.map2 (f : BitVec 32 → BitVec 32 → BitVec 32) (p q : PerGroup) : PerGroup :=
  ⟨f p.account q.account, f p.job q.job, f p.sheet q.sheet, f p.station q.station, f p.scan q.scan⟩

/-- The positions that hold a notice (R214). -/
def PerGroup.defined : PerGroup := ⟨0x7, 0x7, 0x7, 0xF, 0x3F⟩

/-- The set names only notices of its own groups (09, 9.2). -/
def PerGroup.legal (p : PerGroup) : Bool := PerGroup.map2 (fun a b => a &&& ~~~b) p .defined == .none

/-- Whether a notice is in a set. -/
def PerGroup.has (p : PerGroup) (n : Notice) : Bool := (p.get n.group).getLsbD n.bit

/-- A notice's own summary lies in its group's word of this set: pending and enabled (R193). -/
def NoticeUnit.own (u : NoticeUnit) : PerGroup := PerGroup.map2 (· &&& ·) u.pending u.enabled

/-- The group summary (R193). -/
def NoticeUnit.groupSummary (u : NoticeUnit) (g : NoticeGroup) : Bool := u.own.get g != 0

/-- The overall summary (R193). -/
def NoticeUnit.overall (u : NoticeUnit) : Bool :=
  u.groupSummary .account || u.groupSummary .job || u.groupSummary .sheet || u.groupSummary .station ||
    u.groupSummary .scan

/-- Replace pending and enable sets; the summaries follow at once, and an interrupt is sent if the overall
summary goes from no to yes (R193, R194). -/
def NoticeUnit.withSets (u : NoticeUnit) (pending enabled : PerGroup) : NoticeUnit :=
  let v := { u with pending := pending, enabled := enabled }
  if !u.overall && v.overall then { v with interrupts := u.interrupts + 1 } else v

/-- A pending set with a notice's flag set. -/
def PerGroup.insert (p : PerGroup) (n : Notice) : PerGroup :=
  p.set n.group (p.get n.group ||| BitVec.twoPow 32 n.bit)

/-- Raise a notice (R192). -/
def raise (n : Notice) (s : State) : State :=
  { s with noticeUnit := s.noticeUnit.withSets (s.noticeUnit.pending.insert n) s.noticeUnit.enabled }

/-- Raise a notice if a condition holds. -/
def raiseIf (c : Bool) (n : Notice) (s : State) : State := if c then raise n s else s

/-- Take a fault: it fills the empty capture and sends an interrupt (R198), or sets MORE (R199). -/
def captureFault (f : FaultRecord) (s : State) : State :=
  let u := s.noticeUnit
  match u.fault with
  | none => { s with noticeUnit := { u with fault := some f, interrupts := u.interrupts + 1 } }
  | some _ => { s with noticeUnit := { u with more := true } }

/-- The fault capture's captured flag (R198). -/
def faulted (s : State) : Bool := s.noticeUnit.fault.isSome

end Sys2Proof.Machine
end

