-- ==== Sys2Proof/Machine/Operands.lean ====
section
/-! DEFINITION. Operand forms: how bytes at the ports spell numbers, fields, frames and messages, and how the
part packs what it sends (11, frame and record formats). -/
namespace Sys2Proof

/-- The value of one station. -/
def PerStation.get {α : Type} (p : PerStation α) : Station → α
  | .k => p.k | .c => p.c | .m => p.m | .y => p.y | .drum => p.drum

/-- Replace the value of one station. -/
def PerStation.set {α : Type} (p : PerStation α) (st : Station) (v : α) : PerStation α :=
  match st with
  | .k => { p with k := v }
  | .c => { p with c := v }
  | .m => { p with m := v }
  | .y => { p with y := v }
  | .drum => { p with drum := v }

/-- Combine two by station. -/
def PerStation.map2 {α β γ : Type} (f : α → β → γ) (p : PerStation α) (q : PerStation β) : PerStation γ :=
  ⟨f p.k q.k, f p.c q.c, f p.m q.m, f p.y q.y, f p.drum q.drum⟩

/-- Whether some station's value passes a test. -/
def PerStation.any {α : Type} (p : PerStation α) (f : α → Bool) : Bool :=
  f p.k || f p.c || f p.m || f p.y || f p.drum

/-- The stations in order (00, Orders). -/
def Station.list : List Station := [.k, .c, .m, .y, .drum]

end Sys2Proof

namespace Sys2Proof.Machine

/-! ### Numbers and bytes (R213) -/

/-- The low byte of a number. -/
def byteOf (n : Nat) : Byte := BitVec.ofNat 8 n

/-- A number as so many bytes, low byte first (R213). -/
def le : (width : Nat) → Nat → List Byte
  | 0, _ => []
  | w + 1, n => byteOf n :: le w (n / 256)

/-- The number that bytes spell, low byte first (R213). -/
def ofLe : List Byte → Nat
  | [] => 0
  | b :: rest => b.toNat + 256 * ofLe rest

/-- The number in `width` bytes from position `i` on of a body. -/
def field (body : List Byte) (i width : Nat) : Nat := ofLe ((body.drop i).take width)

/-- The byte at position `i` of a body, as a number. -/
def u8 (body : List Byte) (i : Nat) : Nat := field body i 1
/-- Two bytes from position `i` on. -/
def u16 (body : List Byte) (i : Nat) : Nat := field body i 2
/-- Three bytes from position `i` on. -/
def u24 (body : List Byte) (i : Nat) : Nat := field body i 3
/-- Four bytes from position `i` on. -/
def u32 (body : List Byte) (i : Nat) : Nat := field body i 4

/-- Zero bytes up to a multiple of 4 (R215). -/
def pad4 (body : List Byte) : List Byte := body ++ List.replicate ((4 - body.length % 4) % 4) 0

/-- A yes/no as a byte. -/
def flag (b : Bool) : List Byte := [if b then 1 else 0]

/-- An optional field: one byte saying whether it is present, then the field, of zeros when absent (R215). -/
def optional {α : Type} (width : Nat) (pack : α → List Byte) : Option α → List Byte
  | none => 0 :: List.replicate width 0
  | some v => 1 :: pack v

/-- A list: its one-byte count, then its entries, at its greatest length with zeros in unused places (R215). -/
def listed {α : Type} (places width : Nat) (pack : α → List Byte) (items : List α) : List Byte :=
  byteOf items.length :: (items.flatMap pack ++ List.replicate ((places - items.length) * width) 0)

/-- Three amounts of 3 bytes, in the order of the classes. -/
def packAmounts (a : Amounts) : List Byte := le 3 a.mono ++ le 3 a.colour ++ le 3 a.scan

/-- Three lifetime counts of 4 bytes. -/
def packLifetimes (a : Amounts) : List Byte := le 4 a.mono ++ le 4 a.colour ++ le 4 a.scan

/-- Three amounts of 3 bytes from position `i` of a body on. -/
def amountsAt (body : List Byte) (i : Nat) : Amounts := ⟨u24 body i, u24 body (i + 3), u24 body (i + 6)⟩

/-! ### Coded values: the position in the list where the field is specified (R215) -/

/-- R2. -/
def AccountState.code : AccountState → Nat
  | .free => 0 | .active => 1 | .suspended _ => 2 | .retiring => 3
/-- R2. -/
def SuspendReason.code : SuspendReason → Nat | .byHost => 0 | .lockout => 1
/-- The suspend reason, present only in SUSPENDED (R2). -/
def AccountState.reason : AccountState → Option SuspendReason
  | .suspended why => some why
  | _ => none
/-- 02, 2.3: 0 for PRINT and 1 for SCAN. -/
def JobKind.code : JobKind → Nat | .print => 0 | .scan => 1
/-- R33. -/
def JobState.code : JobState → Nat | .ready => 0 | .active => 1 | .stopped => 2 | .closing => 3 | .settled => 4
/-- R33. -/
def StopReason.code : StopReason → Nat
  | .station => 0 | .accountSuspended => 1 | .accountRetiring => 2 | .imageFull => 3 | .scannerAbort => 4
/-- R33. -/
def EndKind.code : EndKind → Nat | .close => 0 | .abort => 1
/-- R216: classes are 0 MONO and 1 COLOUR. -/
def SideClass.code : SideClass → Nat | .mono => 0 | .colour => 1
/-- R84. -/
def StationState.code : StationState → Nat
  | .empty => 0 | .probing => 1 | .challenging => 2 | .genuine => 3 | .rechecking => 4 | .grace => 5
  | .exhausted => 6 | .rejected => 7 | .unreachable => 8 | .lineFault => 9
/-- R84. -/
def RejectReason.code : RejectReason → Nat | .wrongStation => 0 | .failedProof => 1
/-- R84. -/
def LineCondition.code : LineCondition → Nat | .normal => 0 | .lineOpen => 1 | .shortLow => 2 | .shortHigh => 3
/-- R84: 0 for K, 1 for C, 2 for M, 3 for Y and 4 for DRUM. -/
def stationCode : Station → Nat | .k => 0 | .c => 1 | .m => 2 | .y => 3 | .drum => 4
/-- The station a code names. -/
def stationOf : Nat → Option Station
  | 0 => some .k | 1 => some .c | 2 => some .m | 3 => some .y | 4 => some .drum | _ => none
/-- R125: slot codes, 5 for NONE. -/
def slotCode : Option Station → Nat | none => 5 | some st => stationCode st
/-- R91, in the order of the table there. -/
def ExchangeKind.code : ExchangeKind → Nat | .identRead => 0 | .proof => 1 | .yieldWrite => 2
/-- R129. -/
def CapturePhase.code : CapturePhase → Nat | .unbound => 0 | .waiting => 1 | .receiving => 2 | .finishing => 3
/-- R132. -/
def Health.code : Health → Nat | .healthy => 0 | .unhealthy => 1
/-- R134. -/
def SlotState.code : SlotState → Nat | .empty => 0 | .capturing => 1 | .held => 2 | .releasing => 3
/-- R164. -/
def StreamerPhase.code : StreamerPhase → Nat | .idle => 0 | .reading => 1 | .moving => 2 | .draining => 3
/-- R213, the fault word. -/
def FaultKind.code : FaultKind → Nat
  | .nvWriteFailed => 0 | .bandIntegrity => 1 | .imageMemoryError => 2 | .keygenFailed => 3
/-- R189. -/
def ResetKind.code : ResetKind → Nat | .cold => 0 | .pin => 1 | .supplyDip => 2
/-- R213, the control/status word. -/
def PowerState.code : PowerState → Nat | .run => 0 | .standby => 1
/-- R213, the control/status word. -/
def CommandPhase.code : CommandPhase → Nat | .idle => 0 | .busy => 1 | .done => 2 | .accepted => 3

/-- A station set in a byte: bit 0 K to bit 4 DRUM (R215). -/
def packStations (p : PerStation Bool) : Nat :=
  p.k.toNat + 2 * p.c.toNat + 4 * p.m.toNat + 8 * p.y.toNat + 16 * p.drum.toNat

/-- The station set a byte spells. -/
def stationsOf (b : Byte) : PerStation Bool :=
  ⟨b.getLsbD 0, b.getLsbD 1, b.getLsbD 2, b.getLsbD 3, b.getLsbD 4⟩

/-- A notice set is four bytes, laid out as the group's word, one set per group (R215, 09 9.2). -/
def packNotices (p : PerGroup) : List Byte :=
  le 4 p.account.toNat ++ le 4 p.job.toNat ++ le 4 p.sheet.toNat ++ le 4 p.station.toNat ++ le 4 p.scan.toNat

/-- The five notice sets of a body. -/
def noticesOf (body : List Byte) : PerGroup :=
  ⟨BitVec.ofNat 32 (u32 body 0), BitVec.ofNat 32 (u32 body 4), BitVec.ofNat 32 (u32 body 8),
   BitVec.ofNat 32 (u32 body 12), BitVec.ofNat 32 (u32 body 16)⟩

/-! ### Checks of messages -/

/-- One bit of the sheet link's CRC-16: polynomial 0x1021, most significant bit first (R216). -/
def crc16Bits : (fuel : Nat) → BitVec 16 → BitVec 16
  | 0, c => c
  | n + 1, c => crc16Bits n (if c.msb then (c <<< 1) ^^^ 0x1021 else c <<< 1)

/-- The CRC-16 of bytes, from initial value 0xFFFF, not reflected, no final value (R216). -/
def crc16 (bytes : List Byte) : BitVec 16 :=
  bytes.foldl (fun c b => crc16Bits 8 (c ^^^ ((b.setWidth 16 : BitVec 16) <<< (8 : Nat)))) 0xFFFF

/-- Eight bits of the station line's CRC-8: polynomial 0x07, most significant bit first (R217). -/
def crc8Bits : (fuel : Nat) → BitVec 8 → BitVec 8
  | 0, c => c
  | n + 1, c => crc8Bits n (if c.msb then (c <<< 1) ^^^ 0x07 else c <<< 1)

/-- The CRC-8 of bytes, from initial value 0x00, no reflection or final value (R217). -/
def crc8 (bytes : List Byte) : BitVec 8 := bytes.foldl (fun c b => crc8Bits 8 (c ^^^ b)) 0

/-! ### Sheet-link frames (R216) -/

/-- A frame: start byte, kind, body length, body, CRC-16 high byte first over kind, length and body (R216). -/
def frame (kind : Byte) (body : List Byte) : List Byte :=
  let covered := kind :: byteOf body.length :: body
  let c := crc16 covered
  0xA5#8 :: covered ++ [byteOf (c.toNat / 256), byteOf c.toNat]

/-- The four replies to a FEED_ASK (R62). -/
inductive Reply where
  | feedOk | feedWait | feedLimit | feedHalt
  deriving DecidableEq, Repr

/-- Replies are 0 FEED_OK, 1 FEED_WAIT, 2 FEED_LIMIT and 3 FEED_HALT (R216). -/
def Reply.code : Reply → Nat | .feedOk => 0 | .feedWait => 1 | .feedLimit => 2 | .feedHalt => 3

/-- The reasons of the decision table of R62, in its order. -/
inductive FeedReason where
  | none | clash | noJob | stopped | account | station | standby | pathFull | stationBusy | spent | notAllowed
  deriving DecidableEq, Repr

/-- The reason's position counting CLASH as 1, so that NOT_ALLOWED is 10; 0 with FEED_OK (R216). -/
def FeedReason.code : FeedReason → Nat
  | .none => 0 | .clash => 1 | .noJob => 2 | .stopped => 3 | .account => 4 | .station => 5 | .standby => 6
  | .pathFull => 7 | .stationBusy => 8 | .spent => 9 | .notAllowed => 10

/-- A FEED_REPLY frame (R216). -/
def feedReplyFrame (sheet : BitVec 16) (tag : Byte) (reply : Reply) (reason : FeedReason) (again : Bool) : List Byte :=
  frame 0x81 (le 2 sheet.toNat ++ [tag, byteOf reply.code, byteOf reason.code] ++ flag again)

/-- A REPORT_ACK frame; outcome 0 TAKEN, 1 STRAY (R216). -/
def reportAckFrame (sheet : BitVec 16) (tag : Byte) (stray : Bool) : List Byte :=
  frame 0x82 (le 2 sheet.toNat ++ [tag] ++ flag stray)

/-- A FEED_ASK frame (R216). -/
def feedAskFrame (a : FeedAsk) : List Byte :=
  frame 0x01 (le 2 a.sheet.toNat ++ [a.tag, a.sides, a.size, a.class1, a.class2, a.mask])

/-- Doses, in the order K, C, M, Y, DRUM (R216). -/
def packDoses (d : PerStation (BitVec 16)) : List Byte :=
  le 2 d.k.toNat ++ le 2 d.c.toNat ++ le 2 d.m.toNat ++ le 2 d.y.toNat ++ le 2 d.drum.toNat

/-- A DELIVERED frame (R216). -/
def deliveredFrame (r : SheetReport) : List Byte :=
  frame 0x02 (le 2 r.sheet.toNat ++ [r.tag] ++ packDoses r.doses1 ++ packDoses r.doses2)

/-- A JAMMED frame (R216). -/
def jammedFrame (imaged : Byte) (r : SheetReport) : List Byte :=
  frame 0x03 (le 2 r.sheet.toNat ++ [r.tag, imaged] ++ packDoses r.doses1 ++ packDoses r.doses2)

/-- Every field of a FEED_ASK is in its range (R61). -/
def feedAskLegal (a : FeedAsk) : Bool :=
  a.tag != 0 && (a.sides == 1 || a.sides == 2) && (a.size == 1 || a.size == 2) &&
  (a.class1 == 0 || a.class1 == 1) && (a.class2 == 0 || (a.class2 == 1 && a.sides == 2)) &&
  a.mask != 0 && decide (a.mask.toNat < 32)

/-- Every dose is at most 1,000 (R73). -/
def dosesLegal (d : PerStation (BitVec 16)) : Bool := !d.any (fun x => decide (1000 < x.toNat))

/-- Every field of a report is in its range (R73). -/
def reportLegal (r : SheetReport) : Bool := r.tag != 0 && dosesLegal r.doses1 && dosesLegal r.doses2

/-- A JAMMED report's fields are in their ranges: an imaged flag of 0 or 1 too (R73). -/
def jammedLegal (imaged : Byte) (r : SheetReport) : Bool := (imaged == 0 || imaged == 1) && reportLegal r

/-- Five doses of 2 bytes from position `i` of a body on (R216). -/
def dosesAt (body : List Byte) (i : Nat) : PerStation (BitVec 16) :=
  let d (n : Nat) := BitVec.ofNat 16 (u16 body (i + 2 * n))
  ⟨d 0, d 1, d 2, d 3, d 4⟩

/-- The FEED_ASK a body of 8 bytes spells (R216). -/
def feedAskOf (body : List Byte) : FeedAsk :=
  let b (n : Nat) := body.getD n 0
  ⟨BitVec.ofNat 16 (u16 body 0), b 2, b 3, b 4, b 5, b 6, b 7⟩

/-- The report a body spells whose doses begin at position `i` (R216). -/
def reportOf (body : List Byte) (i : Nat) : SheetReport :=
  ⟨BitVec.ofNat 16 (u16 body 0), body.getD 2 0, dosesAt body i, dosesAt body (i + 10)⟩

/-- A body of this kind with its defined length and every field in range (R56, R216). -/
def bodyGood (kind : Byte) (body : List Byte) : Bool :=
  if kind = 0x01 then body.length == 8 && feedAskLegal (feedAskOf body)
  else if kind = 0x02 then body.length == 23 && reportLegal (reportOf body 3)
  else if kind = 0x03 then body.length == 24 && jammedLegal (body.getD 3 0) (reportOf body 4)
  else false

/-- A gathered frame that is good: CRC, length, kind and fields (R56, R216). -/
def frameGood (bytes : List Byte) : Bool :=
  let n := bytes.length
  let covered := (bytes.drop 1).take (n - 3)
  let c := crc16 covered
  gathered bytes && bytes.drop (n - 2) == [byteOf (c.toNat / 256), byteOf c.toNat] &&
    bodyGood (bytes.getD 1 0) (covered.drop 2)

/-- A byte reaches the receiver. In IDLE a start byte begins a frame and any other byte is discarded; the bytes of
a frame are gathered until as many have come as its length says, and the frame is then given whole (R55). -/
def Receiver.take : Receiver → Byte → Receiver × Option (List Byte)
  | .idle, b => if b = 0xA5#8 then (.gathering [b], none) else (.idle, none)
  | .gathering sofar, b =>
    let bytes := sofar ++ [b]
    if gathered bytes then (.idle, some bytes) else (.gathering bytes, none)

/-! ### Station exchange messages (R217) -/

/-- The seven-bit address of the cartridge chip on every station line (R217). -/
def chipAddress : BitVec 7 := 0x3A

/-- One access to a station line: bytes written to a chip address, or so many bytes read from one (R217). -/
inductive LineAccess where
  | write (address : BitVec 7) (bytes : List Byte)
  | read (address : BitVec 7) (length : Nat)
  deriving DecidableEq, Repr

/-- Bits as bytes, low byte first. -/
def bitsToBytes {w : Nat} (count : Nat) (v : BitVec w) : List Byte := le count v.toNat

/-- Bytes as bits, low byte first. -/
def bytesToBits (w : Nat) (bytes : List Byte) : BitVec w := BitVec.ofNat w (ofLe bytes)

/-- A message closed by its check (R217). -/
def withCheck (bytes : List Byte) : List Byte := bytes ++ [crc8 bytes]

/-- The request an attempt of an exchange writes on the line (R217); a PROOF without its nonce sends none. -/
def requestMessage : Exchange → Option (List Byte)
  | .identRead => some (withCheck [0x10])
  | .proof none => none
  | .proof (some nonce) => some (withCheck (0x20 :: bitsToBytes 16 nonce))
  | .yieldWrite value toggle _ => some (withCheck (0x30 :: flag toggle ++ le 3 value))

/-- The answer kind and the defined length of the answer to an exchange (11.3). -/
def answerShape : Exchange → Byte × Nat
  | .identRead => (0x90, 17)
  | .proof _ => (0xA0, 37)
  | .yieldWrite _ _ _ => (0xB0, 6)

/-- What an attempt of an exchange does on its line: the request is written to the chip's address and, with the
wait of R93 between the two, the answer is read from it (R217). A PROOF without its nonce makes no attempt. -/
def attemptAccesses (e : Exchange) : List LineAccess :=
  match requestMessage e with
  | none => []
  | some request => [.write chipAddress request, .read chipAddress (answerShape e).2]

/-- What the bytes of a read say before their fields are looked at (R93, R217). -/
inductive AnswerRead where
  /-- The first byte is 0xFF: no answer is ready; the attempt fails when its wait expires. -/
  | notReady
  /-- A bad check, kind or length. -/
  | bad
  /-- The bytes between kind and check. -/
  | body (bytes : List Byte)
  deriving DecidableEq, Repr

/-- Read an answer to an exchange (R217). -/
def readAnswer (e : Exchange) (bytes : List Byte) : AnswerRead :=
  if bytes.head? = some 0xFF#8 then .notReady
  else
    let (kind, length) := answerShape e
    if bytes.length = length ∧ bytes.head? = some kind ∧
        bytes.drop (length - 1) = [crc8 (bytes.take (length - 1))] then
      .body ((bytes.drop 1).take (length - 2))
    else .bad

/-! ### Capture port messages (R218) -/

/-- CAPTURE_READY. -/
def captureReady (tag page : Nat) : List Byte := [0x01, byteOf tag, byteOf page]

/-- The reasons of CAPTURE_REFUSE, in the order of the checks of R138. -/
inductive RefuseReason where
  | unbound | busy | standby | jobState | spent | pageLimit
  deriving DecidableEq, Repr

/-- R218. -/
def RefuseReason.code : RefuseReason → Nat
  | .unbound => 0 | .busy => 1 | .standby => 2 | .jobState => 3 | .spent => 4 | .pageLimit => 5

/-- CAPTURE_REFUSE. -/
def captureRefuse (why : RefuseReason) : List Byte := [0x02, byteOf why.code]

/-- CAPTURE_STOP; cause 0 KEPT, 1 DROPPED. -/
def captureStop (dropped : Bool) : List Byte := 0x03 :: flag dropped

/-- What the data lane's symbols spell, as events of the capture port: a symbol with top bit 0 is a pixel byte;
the line-end mark closes a line; pixel bytes closed by another control message form no line; a control
symbol with any other code is discarded without effect (R218, log 26). -/
def laneEvents (pixels : List Byte) : List (BitVec 9) → List Instr
  | [] => []
  | sym :: rest =>
    let low := sym.setWidth 8
    if sym.msb = false then laneEvents (pixels ++ [low]) rest
    else if low = 0x01 then .line pixels :: laneEvents [] rest
    else if low = 0x02 then .pageBegin :: laneEvents [] rest
    else if low = 0x03 then .pageEnd :: laneEvents [] rest
    else if low = 0x04 then .scanAbort :: laneEvents [] rest
    else laneEvents pixels rest

end Sys2Proof.Machine
end

