-- ==== Sys2Proof/Machine/Ops.lean ====
section
/-! DEFINITION. The shared operations over the records: accessors, balance requests, the preserved flag and
the preserve walk, stop requests, and whether the part is up. -/
namespace Sys2Proof.Machine

/-! ### Amounts -/

/-- Combine two amounts class by class. -/
def Amounts.map2 (f : Nat → Nat → Nat) (a b : Amounts) : Amounts :=
  ⟨f a.mono b.mono, f a.colour b.colour, f a.scan b.scan⟩

/-- Sum by class. -/
def Amounts.add (a b : Amounts) : Amounts := a.map2 (· + ·) b
/-- Difference by class, stopping at 0. -/
def Amounts.sub (a b : Amounts) : Amounts := a.map2 (· - ·) b
/-- Lesser by class. -/
def Amounts.lesser (a b : Amounts) : Amounts := a.map2 min b
/-- The same amount in every class. -/
def Amounts.all (n : Nat) : Amounts := ⟨n, n, n⟩
/-- Stop each class at a limit. -/
def Amounts.clip (limit : Nat) (a : Amounts) : Amounts := a.lesser (.all limit)
/-- Whether some class passes a limit. -/
def Amounts.passes (limit : Nat) (a : Amounts) : Bool := decide (limit < a.mono) || decide (limit < a.colour) || decide (limit < a.scan)
/-- Every class is at or below the other's. -/
def Amounts.le (a b : Amounts) : Bool := decide (a.mono ≤ b.mono) && decide (a.colour ≤ b.colour) && decide (a.scan ≤ b.scan)
/-- The amount of a class. -/
def Amounts.get (a : Amounts) : UnitClass → Nat | .mono => a.mono | .colour => a.colour | .scan => a.scan
/-- Replace the amount of a class. -/
def Amounts.set (a : Amounts) (c : UnitClass) (n : Nat) : Amounts :=
  match c with | .mono => { a with mono := n } | .colour => { a with colour := n } | .scan => { a with scan := n }

/-! ### Whether the part is up -/

/-- A reset is in progress or the retained supply is lost: the part takes no command and no message on any
port (R132, R179, R204, R205). -/
def down (s : State) : Bool := s.retentionUnit.supply == .lost || s.retentionUnit.reset != .none

/-- The part is in STANDBY (R211). -/
def standby (s : State) : Bool := s.retentionUnit.power == .standby

/-- An event at a port: not taken while the part is down. -/
def whenUp (f : State → State) (s : State) : State := if down s then s else f s

/-! ### Accessors -/

/-- The account entry at an index. -/
def account (s : State) (i : Nat) : Account := Table.read .blank s.accountUnit.accounts i

/-- Write an account entry. -/
def putAccount (i : Nat) (a : Account) (s : State) : State :=
  { s with accountUnit := { s.accountUnit with accounts := Table.write .blank s.accountUnit.accounts i a } }

/-- The group policy entry of a group. -/
def groupPolicy (s : State) (g : Nat) : GroupPolicy := Table.read .default s.accountUnit.groups g

/-- The index of the non-FREE entry that holds a number (R1). -/
def accountIndex (s : State) (number : Nat) : Option Nat :=
  (Table.search (fun a : Account => a.state != .free && a.number == some number) s.accountUnit.accounts).map (·.1)

/-- The entry number and entry of the job that holds a tag (R32). -/
def jobOfTag (s : State) (tag : Nat) : Option (Nat × Job) :=
  Table.search (fun j : Job => j.tag == tag) s.jobUnit.jobs

/-- Write a job entry. -/
def putJob (k : Nat) (j : Job) (s : State) : State :=
  { s with jobUnit := { s.jobUnit with jobs := Table.put s.jobUnit.jobs k j } }

/-- The record of a station. -/
def station (s : State) (st : Station) : StationRecord := s.stationUnit.stations.get st

/-- Write the record of a station. -/
def putStation (st : Station) (x : StationRecord) (s : State) : State :=
  { s with stationUnit := { s.stationUnit with stations := s.stationUnit.stations.set st x } }

/-- The key slot of a number. -/
def keySlot (s : State) (n : Nat) : KeySlot := Table.read .blank s.holdUnit.slots n

/-- Write a key slot. -/
def putSlot (n : Nat) (x : KeySlot) (s : State) : State :=
  { s with holdUnit := { s.holdUnit with slots := Table.write .blank s.holdUnit.slots n x } }

/-- The descriptor of a number, where it is on a list. -/
def descriptor (s : State) (n : Nat) : Option Descriptor := Table.find s.captureUnit.descriptors n

/-! ### The preserve walk and the preserved flags (R4, R207, R208) -/

/-- A change that R4 names has reached the account at an index: it makes the write in progress stale, or the
walk dirty if the entry was written in this walk. -/
def Walk.touchAccount (w : Walk) (i : Nat) : Walk :=
  match w.position with
  | .groups => w
  | .account p =>
    if i < p then { w with dirty := true }
    else if i = p ∧ w.writing.isSome then { w with stale := true }
    else w

/-- A change has reached the group policy table (R28, R207, R208). -/
def Walk.touchGroups (w : Walk) : Walk :=
  match w.position with
  | .groups => if w.writing.isSome then { w with stale := true } else w
  | .account _ => { w with dirty := true }

/-- Tell the walk of a change to an account. -/
def touchAccount (i : Nat) (s : State) : State :=
  { s with retentionUnit := { s.retentionUnit with walk := s.retentionUnit.walk.map (·.touchAccount i) } }

/-- Tell the walk of a change to the group policy table. -/
def touchGroups (s : State) : State :=
  { s with retentionUnit := { s.retentionUnit with walk := s.retentionUnit.walk.map (·.touchGroups) } }

/-- Every field whose change clears preserved has the same value in both (R4). -/
def sameForImage (a b : Account) : Bool :=
  a.balance == b.balance && a.held == b.held && a.state == b.state && a.group == b.group &&
  a.unlimited == b.unlimited && a.lifetime == b.lifetime && a.countSaturated == b.countSaturated &&
  a.creditClipped == b.creditClipped && a.number == b.number && a.digest == b.digest

/-- Change an account entry by an event. Preserved is cleared, and the walk told, exactly when a field of R4
takes a different value. -/
def updateAccount (i : Nat) (f : Account → Account) (s : State) : State :=
  let a := account s i
  let b := f a
  if sameForImage a b then putAccount i { b with preserved := a.preserved } s
  else touchAccount i (putAccount i { b with preserved := false } s)

/-! ### Balance requests (R3, R5, R6, R7) -/

/-- What a reserve request is granted (R5): per class the smallest of the request, the balance and the room in
held, or all of it for an unlimited account (R3). -/
def Account.grant (a : Account) (request : Amounts) : Amounts :=
  if a.unlimited then request
  else (request.lesser a.balance).lesser ((Amounts.all Config.maxAmount).sub a.held)

/-- Move a grant from balance to held (R5). -/
def Account.reserve (a : Account) (grant : Amounts) : Account :=
  if a.unlimited then a else { a with balance := a.balance.sub grant, held := a.held.add grant }

/-- Add to balance, stopping at the limit and setting CREDIT_CLIPPED when it stops (R6, R13). -/
def Account.credit (a : Account) (units : Amounts) : Account :=
  let sum := a.balance.add units
  { a with balance := sum.clip Config.maxAmount, creditClipped := a.creditClipped || sum.passes Config.maxAmount }

/-- Move units from held back to balance (R6). -/
def Account.giveBack (a : Account) (units : Amounts) : Account :=
  if a.unlimited then a else { a.credit units with held := a.held.sub units }

/-- Spend units from held and raise the lifetime counts, stopping them at their limit (R7). -/
def Account.charge (a : Account) (units counts : Amounts) : Account :=
  let sum := a.lifetime.add counts
  { a with
    held := if a.unlimited then a.held else a.held.sub units
    lifetime := sum.clip Config.maxLifetime
    countSaturated := a.countSaturated || sum.passes Config.maxLifetime }

/-- The entry a completed retirement leaves: FREE, preserved no (R2, R26). -/
def Account.retired : Account := Account.free false

/-- The settlement of its last open job frees a RETIRING account (R26). -/
def completeRetirement (i : Nat) (s : State) : State :=
  let a := account s i
  if a.state = .retiring ∧ a.openJobs = 0 then updateAccount i (fun _ => .retired) s else s

/-! ### Stop requests (R44, R45) -/

/-- A READY or ACTIVE job: the only ones a stop request changes, and the only ones that may commit (R44). -/
def Job.running (j : Job) : Bool := j.state == .ready || j.state == .active

/-- A stop request reaches every job that passes a test: READY and ACTIVE ones become STOPPED with the reason,
and JOB_STOPPED is raised if any did (R44). -/
def stopJobs (p : Job → Bool) (why : StopReason) (s : State) : State :=
  let hit (j : Job) : Bool := j.running && p j
  let jobs := s.jobUnit.jobs.map fun e =>
    if hit e.2 then (e.1, { e.2 with state := .stopped, stopReason := some why }) else e
  raiseIf (s.jobUnit.jobs.any fun e => hit e.2) .jobStopped { s with jobUnit := { s.jobUnit with jobs := jobs } }

/-- A stop request for the job of a tag (R44). -/
def stopTag (tag : Nat) (why : StopReason) (s : State) : State := stopJobs (fun j => j.tag == tag) why s

/-- The station-lost request: every READY or ACTIVE job that has used the station is stopped (R45). -/
def stationLost (st : Station) (s : State) : State := stopJobs (fun j => j.stationsUsed.get st) .station s

/-- The account unit issues a stop request for each of an account's unsettled jobs; each is taken later as an
event of its own (R20, R25, log 13). -/
def issueStops (i : Nat) (why : StopReason) (s : State) : State :=
  let mine := (s.jobUnit.jobs.filter fun e => e.2.owner == some i && e.2.state != .settled).map fun e => (e.2.tag, why)
  { s with jobUnit := { s.jobUnit with stopRequests := s.jobUnit.stopRequests ++ mine } }

/-! ### Amounts of a job (R35) -/

/-- The remaining reservation: reserved minus charged minus committed (R35). -/
def Job.remaining (j : Job) : Amounts := (j.reserved.sub j.charged).sub j.committed

/-- Nothing is committed in any class. -/
def Job.idle (j : Job) : Bool := j.committed == .zero

end Sys2Proof.Machine
end

