-- ==== Sys2Proof/Machine/CommandCycle.lean ====
section
/-! DEFINITION. The command cycle of the control port (R180 to R184): what every command does around the
handling of its own block. -/
namespace Sys2Proof.Machine

/-- The response codes (08, response codes). -/
inductive Response where
  | ok | accepted | busy | noEntry | exists | tableFull | badState | badField | badLength | notAllowed
  | noBalance | noCredential | credentialMismatch | lockedOut | faulted | standby | damaged | scannerBusy
  | keygenFailed
  deriving DecidableEq, Repr

/-- The number of a response code. -/
def Response.code : Response → Nat
  | .ok => 1 | .accepted => 2 | .busy => 16 | .noEntry => 17 | .exists => 18 | .tableFull => 19 | .badState => 20
  | .badField => 21 | .badLength => 22 | .notAllowed => 23 | .noBalance => 24 | .noCredential => 25
  | .credentialMismatch => 26 | .lockedOut => 27 | .faulted => 28 | .standby => 29 | .damaged => 30
  | .scannerBusy => 31 | .keygenFailed => 32

/-- A block's answer to a command: a response code and body, or none yet (OPEN_JOB of a scan waits for its key,
R184), with the state the block leaves. -/
abbrev Answered := Option (Response × List Byte) × State

/-- The command is refused: an empty body, and the state as it stands (R184). -/
def refuse (why : Response) (s : State) : Answered := (some (why, []), s)

/-- The command has been carried out; the body is padded to a multiple of 4 (R215). -/
def ok (body : List Byte) (s : State) : Answered := (some (.ok, pad4 body), s)

/-- The command has begun work that ends later (R185). -/
def accept (body : List Byte) (s : State) : Answered := (some (.accepted, pad4 body), s)

/-- Place an answer: response code, body length, body; the phase becomes DONE or ACCEPTED (R180, R184). -/
def place (answer : Response × List Byte) (s : State) : State :=
  let area := Memory.writeBytes [] 0 (le 2 answer.1.code ++ le 2 answer.2.length ++ answer.2)
  let phase : CommandPhase := if answer.1 = .accepted then .accepted else .done
  { s with controlPort :=
    { s.controlPort with responseArea := area, phase := phase, opening := none } }

/-- Place the answer if there is one yet. -/
def conclude : Answered → State
  | (some answer, s) => place answer s
  | (none, s) => s

/-- A write to the command area, byte by byte; bytes beyond it are not its own (R179, R182). -/
def storeCommandBytes (offset : Nat) (bytes : List Byte) (s : State) : State :=
  let area := Memory.writeBytes s.controlPort.commandArea offset (bytes.take (Config.areaBytes - offset))
  { s with controlPort := { s.controlPort with commandArea := area } }

/-- The host writes a command record: code, body length, body (08, 8.7; log 1). -/
def storeRequest (code : Nat) (r : Request) (s : State) : State :=
  storeCommandBytes 0 (le 2 code ++ le 2 r.length.toNat ++ r.body) s

/-- A GO that is taken: response area cleared, COLLISION cleared, phase BUSY (R181). -/
def takeGo (s : State) : State :=
  { s with controlPort := { s.controlPort with responseArea := [], collision := false, phase := .busy } }

/-- A GO or a command-area write while BUSY: ignored, and COLLISION is set (R182). -/
def collide (s : State) : State := { s with controlPort := { s.controlPort with collision := true } }

/-- The command code that stands in the command area (R213). -/
def areaCode (s : State) : Nat := ofLe (Memory.readBytes s.controlPort.commandArea 0 2)
/-- The body length that stands in the command area (R213). -/
def areaLength (s : State) : Nat := ofLe (Memory.readBytes s.controlPort.commandArea 2 2)
/-- The first bytes of the body that stands in the command area (R213). -/
def areaBody (s : State) (length : Nat) : List Byte := Memory.readBytes s.controlPort.commandArea 4 length

/-- What a block does with a command's body: `none` where a field is out of range or a forbidden combination
(R183 check 3). -/
abbrev Handler := List Byte → State → Option Answered

/-- The checks of R183 from the length on, and the handing to the block (R184), for a command whose code is known
and whose defined body length is `length`. The GO has been taken. -/
def checkAndHand (length : Nat) (h : Handler) (s : State) : State :=
  if areaLength s ≠ length then conclude (refuse .badLength s)
  else conclude ((h (areaBody s length) s).getD (refuse .badField s))

/-- A host command: the record is written and GO is set (R181, R182, log 1). While a reset is in progress the
window takes no access (R179). -/
def command (code length : Nat) (h : Handler) (r : Request) (s : State) : State :=
  if down s then s
  else if s.controlPort.phase = .busy then collide s
  else checkAndHand length h (takeGo (storeRequest code r s))

/-- Answer NO_ENTRY, or go on with the account a number names (R11, R162). -/
def withAccount (number : Nat) (s : State) (f : Nat → Account → Answered) : Answered :=
  match accountIndex s number with
  | none => refuse .noEntry s
  | some i => f i (account s i)

/-- Answer NO_ENTRY, or go on with the job a tag names (R36). -/
def withJob (tag : Nat) (s : State) (f : Nat → Job → Answered) : Answered :=
  match jobOfTag s tag with
  | none => refuse .noEntry s
  | some (k, j) => f k j

/-- The STANDBY refusal, where a command is not taken there. -/
def inRun (s : State) (a : Answered) : Answered := if standby s then refuse .standby s else a

/-- A field is a yes/no. -/
def yesNo (n : Nat) : Bool := decide (n ≤ 1)

/-- An account number in range (R11). -/
def numberOk (n : Nat) : Bool := decide (1 ≤ n) && decide (n ≤ 65535)

end Sys2Proof.Machine
end

