-- ==== Sys2Proof/Machine/Cipher.lean ====
section
/-! DEFINITION. AES-256-GCM, the cipher of the scan bands (R147, R164): the key, the nonce and the
authenticated data are the spec's; the algorithm is the published standard the spec names, with 96-bit
nonces and 128-bit tags (PRESUMED, log 8). -/
namespace Sys2Proof.Machine.Cipher

/-- One row of the AES substitution box: sixteen bytes, the lowest index in the lowest byte. -/
def sboxRow : Nat → Nat
  | 0 => 0x76abd7fe2b670130c56f6bf27b777c63
  | 1 => 0xc072a49cafa2d4adf04759fa7dc982ca
  | 2 => 0x1531d871f1e5a534ccf73f362693fdb7
  | 3 => 0x75b227ebe28012079a059618c323c704
  | 4 => 0x842fe329b3d63b52a05a6e1b1a2c8309
  | 5 => 0xcf584c4a39becb6a5bb1fc20ed00d153
  | 6 => 0xa89f3c507f02f94585334d43fbaaefd0
  | 7 => 0xd2f3ff1021dab6bcf5389d928f40a351
  | 8 => 0x73195d643d7ea7c41744975fec130ccd
  | 9 => 0xdb0b5ede14b8ee4688902a22dc4f8160
  | 10 => 0x79e4959162acd3c25c2406490a3a32e0
  | 11 => 0x08ae7a65eaf4566ca94ed58d6d37c8e7
  | 12 => 0x8a8bbd4b1f74dde8c6b4a61c2e2578ba
  | 13 => 0x9e1dc186b95735610ef6034866b53e70
  | 14 => 0xdf2855cee9871e9b948ed9691198f8e1
  | _ => 0x16bb54b00f2d99416842e6bf0d89a18c

/-- The AES substitution of a byte. -/
def sub (b : Byte) : Byte := byteOf (sboxRow (b.toNat / 16) >>> (8 * (b.toNat % 16)))

/-- Multiplication by x in the AES field. -/
def xtime (b : Byte) : Byte := if b.msb then (b <<< 1) ^^^ 0x1B else b <<< 1

/-- The AES substitution of the four bytes of a word. -/
def subWord (w : Word) : Word :=
  sub (w.extractLsb' 24 8) ++ sub (w.extractLsb' 16 8) ++ sub (w.extractLsb' 8 8) ++ sub (w.extractLsb' 0 8)

/-- One word of the AES-256 key schedule from the word eight places and the word one place before it. -/
def nextWord (i : Nat) (rcon : Byte) (back8 back1 : Word) : Word :=
  if i % 8 = 0 then back8 ^^^ subWord (back1.rotateLeft 8) ^^^ (rcon ++ (0 : BitVec 24))
  else if i % 8 = 4 then back8 ^^^ subWord back1
  else back8 ^^^ back1

/-- The key schedule from the last eight words on: `window` holds them, oldest first. -/
def schedule : (fuel i : Nat) → (rcon : Byte) → (window : List Word) → List Word
  | 0, _, _, _ => []
  | n + 1, i, rcon, window =>
    let w := nextWord i rcon (window.getD 0 0) (window.getD 7 0)
    w :: schedule n (i + 1) (if i % 8 = 0 then xtime rcon else rcon) (window.drop 1 ++ [w])

/-- Bits as so many bytes, high byte first. -/
def beBytes {w : Nat} (v : BitVec w) : (count : Nat) → List Byte
  | 0 => []
  | n + 1 => v.extractLsb' (8 * n) 8 :: beBytes v n

/-- The words of a key, first bytes first; byte 0 of the key is the low byte of its 256 bits. -/
def keyWords (key : BitVec 256) : List Word :=
  let b (i : Nat) : Byte := key.extractLsb' (8 * i) 8
  let w (i : Nat) : Word := b (4 * i) ++ b (4 * i + 1) ++ b (4 * i + 2) ++ b (4 * i + 3)
  [w 0, w 1, w 2, w 3, w 4, w 5, w 6, w 7]

/-- The sixty round key words of AES-256, as bytes. -/
def roundKeys (key : BitVec 256) : List Byte :=
  let ws := keyWords key
  (ws ++ schedule 52 8 0x01 ws).flatMap (fun w => beBytes w 4)

/-- Byte-wise exclusive or. -/
def xorBytes (a b : List Byte) : List Byte := List.zipWith (· ^^^ ·) a b

/-- The row shift: byte r of column c comes from column c + r. -/
def shiftRows (s : List Byte) : List Byte :=
  [0, 5, 10, 15, 4, 9, 14, 3, 8, 13, 2, 7, 12, 1, 6, 11].map (fun i => s.getD i 0)

/-- The column mix, four bytes at a time. -/
def mixColumns : List Byte → List Byte
  | a :: b :: c :: d :: rest =>
    let t := a ^^^ b ^^^ c ^^^ d
    (a ^^^ t ^^^ xtime (a ^^^ b)) :: (b ^^^ t ^^^ xtime (b ^^^ c)) ::
      (c ^^^ t ^^^ xtime (c ^^^ d)) :: (d ^^^ t ^^^ xtime (d ^^^ a)) :: mixColumns rest
  | _ => []

/-- The rounds after the first key addition; the last one mixes no columns. -/
def rounds : (fuel : Nat) → (keys state : List Byte) → List Byte
  | 0, keys, s => xorBytes (shiftRows (s.map sub)) (keys.take 16)
  | n + 1, keys, s => rounds n (keys.drop 16) (xorBytes (mixColumns (shiftRows (s.map sub))) (keys.take 16))

/-- Up to 16 bytes as one block, the first byte highest, zeros after the last. -/
def toBlock (bytes : List Byte) : BitVec 128 :=
  (bytes.foldl (fun (acc : BitVec 128) b => (acc <<< (8 : Nat)) ||| b.setWidth 128) 0) <<< (8 * (16 - bytes.length))

/-- AES-256 of one block under expanded keys. -/
def encryptBlock (keys : List Byte) (block : List Byte) : BitVec 128 :=
  toBlock (rounds 13 (keys.drop 16) (xorBytes block (keys.take 16)))

/-- The product in the field of GCM: `fuel` bits of `x`, highest first, against `v`. -/
def mulBits : (fuel : Nat) → (x v acc : BitVec 128) → BitVec 128
  | 0, _, _, acc => acc
  | n + 1, x, v, acc =>
    mulBits n (x <<< 1) (if v.getLsbD 0 then (v >>> 1) ^^^ ((0xE1 : BitVec 128) <<< (120 : Nat)) else v >>> 1)
      (if x.msb then acc ^^^ v else acc)

/-- The product in the field of GCM. -/
def mul (x y : BitVec 128) : BitVec 128 := mulBits 128 x y 0

/-- Absorb bytes, in blocks of 16 filled up with zeros, into the authentication hash. -/
def absorb (h : BitVec 128) : (fuel : Nat) → (acc : BitVec 128) → List Byte → BitVec 128
  | 0, acc, _ => acc
  | n + 1, acc, bytes =>
    if bytes.isEmpty then acc else absorb h n (mul (acc ^^^ toBlock (bytes.take 16)) h) (bytes.drop 16)

/-- The key stream of so many blocks under a 12-byte nonce, from a counter on. -/
def keyStream (keys nonce : List Byte) : (blocks counter : Nat) → List Byte
  | 0, _ => []
  | n + 1, c =>
    beBytes (encryptBlock keys (nonce ++ beBytes (BitVec.ofNat 32 c) 4)) 16 ++ keyStream keys nonce n (c + 1)

/-- Encrypt or decrypt: exclusive or with the key stream, whose first data block has counter 2. -/
def crypt (key : BitVec 256) (nonce data : List Byte) : List Byte :=
  xorBytes data (keyStream (roundKeys key) nonce ((data.length + 15) / 16) 2)

/-- The 16-byte integrity tag over the authenticated data and the ciphertext. -/
def tag (key : BitVec 256) (nonce aad cipher : List Byte) : BitVec 128 :=
  let keys := roundKeys key
  let h := encryptBlock keys (List.replicate 16 0)
  let lengths := BitVec.ofNat 128 ((8 * aad.length) * 2 ^ 64 + 8 * cipher.length)
  let hash := mul (absorb h cipher.length (absorb h aad.length 0 aad) cipher ^^^ lengths) h
  hash ^^^ encryptBlock keys (nonce ++ beBytes (BitVec.ofNat 32 1) 4)

end Sys2Proof.Machine.Cipher
end

