-- ==== Sys2Proof/Machine/Custody.lean ====
section
/-! DEFINITION. The shared operations of scan custody: extents and descriptors (R144 to R146), the band builder
(R145), page dropping (R148), the hold list (R159), erasure (R137, R172), the end of a release (R170), and the
settlement of a job (R49, R50). -/
namespace Sys2Proof.Machine

/-! ### Extents and descriptors (R144, R146) -/

/-- The first fit among the rising owned extents: the free run of at least `need` extents whose first extent has
the lowest number, looked for from extent `start` on (R146 step 3). -/
def firstFit (need : Nat) : (start : Nat) → (owned : List Nat) → Option Nat
  | c, [] => if c + need ≤ Config.extentCount then some c else none
  | c, e :: rest => if c + need ≤ min e Config.extentCount then some c else firstFit need (e + 1) rest

/-- The length of the longest free run (R151). -/
def longestRun : (start : Nat) → (owned : List Nat) → Nat
  | c, [] => Config.extentCount - c
  | c, e :: rest => max (e - c) (longestRun (e + 1) rest)

/-- Mark a run owned, keeping the list of owned extents rising. -/
def ownRun (first count : Nat) (owned : List Nat) : List Nat :=
  owned.takeWhile (· < first) ++ List.range' first count ++ owned.dropWhile (· < first)

/-- Free a run. -/
def freeRun (first count : Nat) (owned : List Nat) : List Nat :=
  owned.filter (fun e => !(decide (first ≤ e) && decide (e < first + count)))

/-- Return a descriptor to the pool and free the extents of its run. -/
def freeBand (u : CaptureUnit) (n : Nat) : CaptureUnit :=
  match Table.find u.descriptors n with
  | none => u
  | some d =>
    { u with descriptors := Table.drop u.descriptors n
             extents := freeRun d.firstExtent d.extentCount u.extents }

/-- Return descriptors to the pool and free their extents. -/
def freeBands (ns : List Nat) (s : State) : State := { s with captureUnit := ns.foldl freeBand s.captureUnit }

/-- The bytes of a line of a format (R129). -/
def LineFormat.lineBytes (f : LineFormat) : Nat := f.pixels * f.bytesPerPixel

/-- The extents that so many bytes take (R144, R146). -/
def extentsFor (bytes : Nat) : Nat := (bytes + Config.extentBytes - 1) / Config.extentBytes

/-! ### The capture port -/

/-- Send a message on the status lane (R130). -/
def sendStatus (message : List Byte) (s : State) : State :=
  { s with captureUnit := { s.captureUnit with status := s.captureUnit.status ++ [message] } }

/-- A page is in capture (R129). -/
def pageInCapture (s : State) : Bool := s.captureUnit.page.isSome

/-- Both stores free, one of them filling (R145). -/
def CaptureUnit.emptyStores (u : CaptureUnit) : CaptureUnit := { u with filling := some .blank, handedOff := [] }

/-- The port is unbound: UNBOUND with tag, slot and format absent, the stores emptied (R131, R145). -/
def unbindPort (s : State) : State :=
  { s with captureUnit :=
    { s.captureUnit.emptyStores with phase := .unbound, boundTag := none, boundSlot := none, format := none
                                     page := none } }

/-- The descriptors of the page in capture on a band list (R148 step 1). -/
def pageBands (s : State) (bands : List Nat) : List Nat :=
  match s.captureUnit.page with
  | none => []
  | some p => bands.filter fun n => (descriptor s n).any (fun d => d.page == p.number)

/-- The byte lengths of descriptors, summed. -/
def bandBytes (s : State) (bands : List Nat) : Nat :=
  (bands.map fun n => ((descriptor s n).map (·.length)).getD 0).sum

/-- The page in capture is dropped at the capture unit: its bands leave the slot's list and are freed, the stores
are emptied, and the port is WAITING (R148 steps 1 and 2). -/
def dropPage (s : State) : State :=
  let s1 :=
    match s.captureUnit.boundSlot with
    | none => s
    | some n =>
      let x := keySlot s n
      let gone := pageBands s x.bands
      let x' := { x with bands := x.bands.filter (fun b => !gone.contains b)
                         totalBytes := x.totalBytes - bandBytes s gone }
      freeBands gone (putSlot n x' s)
  { s1 with captureUnit := { s1.captureUnit.emptyStores with phase := .waiting, page := none } }

/-! ### Erasure -/

/-- The owner's held scans falls by 1 (R137, R172). -/
def dropHeldScan (owner : Option Nat) (s : State) : State :=
  match owner with
  | none => s
  | some i => updateAccount i (fun a => { a with heldScans := a.heldScans - 1 }) s

/-- A slot's descriptors and extents are freed, its key is zeroized, every field takes its EMPTY value, and its
owner's held scans falls by 1 (R137 steps 2 to 5, R172 steps 3 to 6). -/
def blankSlot (n : Nat) (s : State) : State :=
  let x := keySlot s n
  dropHeldScan x.owner (putSlot n .blank (freeBands x.bands s))

/-- A CAPTURING slot with no page in capture is erased: the port's bound slot becomes absent (R137). -/
def eraseCapturing (n : Nat) (s : State) : State :=
  let s1 := blankSlot n s
  { s1 with captureUnit := { s1.captureUnit with boundSlot := none } }

/-- The streamer stops: the band buffer is cleared, the FIFO emptied, the streamer IDLE (R168, R170, R172). -/
def stopStreamer (s : State) : State :=
  { s with holdUnit := { s.holdUnit with streamer := .idle, bandBuffer := [], fifo := [] } }

/-- A HELD or RELEASING slot is erased (R172). -/
def eraseHeld (n : Nat) (s : State) : State :=
  let s1 := if (keySlot s n).state = .releasing then stopStreamer s else s
  blankSlot n { s1 with holdUnit := { s1.holdUnit with holdList := s1.holdUnit.holdList.erase n } }

/-- The slot that is RELEASING, if there is one (R157). -/
def releasingSlot (s : State) : Option Nat :=
  (Table.search (fun x : KeySlot => x.state == .releasing) s.holdUnit.slots).map (·.1)

/-- A RELEASING slot returns to HELD, its release fields absent and expiry due no (R161, R168, R170). -/
def returnToHeld (n : Nat) (damaged : Bool) (s : State) : State :=
  let x := keySlot s n
  putSlot n { x with state := .held, release := none, expiryDue := false, damaged := damaged } s

/-- A release ends without being consumed, by CANCEL_RELEASE or by the end request of suspension (R169, R170). -/
def endRelease (n : Nat) (s : State) : State :=
  if (keySlot s n).expiryDue then raise .scanExpired (raise .releaseEnded (eraseHeld n s))
  else raise .releaseEnded (returnToHeld n (keySlot s n).damaged (stopStreamer s))

/-! ### The hold list (R155, R159) -/

/-- Place a slot after every slot whose expiry minute is at or below its own (R159). -/
def placeHeld (expiryOf : Nat → Nat) (n expiry : Nat) : List Nat → List Nat
  | [] => [n]
  | m :: rest => if expiryOf m ≤ expiry then m :: placeHeld expiryOf n expiry rest else n :: m :: rest

/-- The expiry minute of a slot. -/
def expiryOf (s : State) (n : Nat) : Nat := ((keySlot s n).times.map (·.expiry)).getD 0

/-- The minutes a scan is held: the group's maximum, or the hold request if that is lower; a request of 0 counts
as the maximum (R27, R50, R155). -/
def holdMinutes (groupMax request : Nat) : Nat := if request = 0 then groupMax else min groupMax request

/-- A CAPTURING slot enters HELD at settlement (R155). -/
def holdScan (n : Nat) (minutes : Nat) (s : State) : State :=
  let x := keySlot s n
  let expiry := min Config.maxMinute (s.holdUnit.minute + minutes)
  let list := placeHeld (expiryOf s) n expiry s.holdUnit.holdList
  let s1 := putSlot n { x with state := .held, jobTag := none, times := some ⟨s.holdUnit.minute, expiry⟩ } s
  raise .scanHeld { s1 with holdUnit := { s1.holdUnit with holdList := list } }

/-! ### Settlement (R49, R50) -/

/-- What becomes of a SCAN job's slot at settlement: held, or erased; the slot number the entry keeps comes back
with the state. A slot that is no longer CAPTURING was erased by the owner's retirement (R50). -/
def settleSlot (j : Job) (s : State) : Option Nat × State :=
  match j.slot with
  | none => (none, s)
  | some n =>
    if (keySlot s n).state != .capturing then (none, s)
    else if j.endKind = some .close ∧ 0 < j.pagesCaptured then
      let group := (account s (j.owner.getD 0)).group
      (some n, holdScan n (holdMinutes (groupPolicy s group).maxHoldMinutes j.holdRequest) s)
    else (none, eraseCapturing n s)

/-- The job at an entry settles (R49). -/
def settle (k : Nat) (s : State) : State :=
  match Table.find s.jobUnit.jobs k with
  | none => s
  | some j =>
    let owner := j.owner.getD 0
    let s1 := updateAccount owner (fun a => a.giveBack (j.reserved.sub j.charged)) s
    let s2 := updateAccount owner (fun a => { a with openJobs := a.openJobs - 1 }) s1
    let (slot, s3) := if j.kind = .scan then
        let (kept, s') := settleSlot j s2
        (kept, unbindPort s')
      else (j.slot, s2)
    let s4 := raise .jobSettled (putJob k { j with state := .settled, owner := none, slot := slot } s3)
    completeRetirement owner s4

/-- A CLOSING job with nothing committed settles (R42, R43, R49). -/
def settleIfDone (k : Nat) (s : State) : State :=
  match Table.find s.jobUnit.jobs k with
  | none => s
  | some j => if j.state = .closing ∧ j.idle then settle k s else s

/-- The page drop claim for the bound job: committed SCAN falls by 1 and nothing is charged (R43). -/
def pageDropClaim (s : State) : State :=
  match s.captureUnit.boundTag.bind (jobOfTag s) with
  | none => s
  | some (k, j) =>
    settleIfDone k (putJob k { j with committed := { j.committed with scan := j.committed.scan - 1 } } s)

/-- The page in capture is dropped for a stop: bands and stores, CAPTURE_STOP DROPPED where the part ends the
page itself, the page drop claim, and the stop request with its reason (R148 steps 1 to 5, R149). -/
def dropAndStop (tellScanner : Bool) (why : StopReason) (s : State) : State :=
  let tag := s.captureUnit.boundTag.getD 0
  let s1 := dropPage s
  let s2 := if tellScanner then sendStatus (captureStop true) s1 else s1
  stopTag tag why (pageDropClaim s2)

/-- An erase request of the owner's retirement for one slot, whatever its state (R25, R137, R172). The page in
capture, if any, is dropped first; its claim reaches the job when the slot is gone (R25, log 22). -/
def eraseForRetirement (s : State) (n : Nat) : State :=
  match (keySlot s n).state with
  | .empty => s
  | .held => eraseHeld n s
  | .releasing => raise .releaseEnded (eraseHeld n s)
  | .capturing =>
    if pageInCapture s then pageDropClaim (eraseCapturing n (sendStatus (captureStop true) (dropPage s)))
    else eraseCapturing n s

/-- The slots that an account owns. -/
def slotsOwned (i : Nat) (s : State) : List Nat :=
  (s.holdUnit.slots.filter fun e => e.2.owner == some i && e.2.state != .empty).map (·.1)

/-- The end request of suspension: the account's RELEASING slot, if there is one (R20, R169). -/
def endRequest (i : Nat) (s : State) : State :=
  match releasingSlot s with
  | none => s
  | some n => if (keySlot s n).owner = some i then endRelease n s else s

/-- An account enters SUSPENDED: the end request in the same event, and stop requests issued (R20). -/
def suspend (i : Nat) (why : SuspendReason) (s : State) : State :=
  let s1 := updateAccount i (fun a => { a with state := .suspended why }) s
  issueStops i .accountSuspended (endRequest i s1)

/-! ### The expiry walk (R160) -/

/-- One slot that is due: HELD is erased, RELEASING is passed over with expiry due yes (R160). -/
def expireSlot (s : State) (n : Nat) : State :=
  let x := keySlot s n
  if x.state = .releasing then putSlot n { x with expiryDue := true } s else eraseHeld n s

/-- The slots the walk takes: from the head of the hold list while the expiry minute is at or below the minute
counter (R160). -/
def dueSlots (s : State) : List Nat := s.holdUnit.holdList.takeWhile (fun n => decide (expiryOf s n ≤ s.holdUnit.minute))

/-- The expiry walk; `noted` says whether an erased slot raises SCAN_EXPIRED (R160, R202, log 14). -/
def expiryWalk (noted : Bool) (s : State) : State :=
  let due := dueSlots s
  let erases := due.any fun n => (keySlot s n).state != .releasing
  let s1 := due.foldl expireSlot s
  raiseIf (noted && erases) .scanExpired { s1 with holdUnit := { s1.holdUnit with walkDue := false } }

/-! ### Bands (R145 to R147, R164) -/

/-- The 12-byte nonce of a band: slot, page and band number, then zeros (R147). -/
def bandNonce (slot : Nat) (d : Descriptor) : List Byte :=
  [byteOf slot, byteOf d.page, byteOf d.band] ++ List.replicate 9 0

/-- The authenticated data of a band: page number, band number, lines (R147). -/
def bandData (d : Descriptor) : List Byte := [byteOf d.page, byteOf d.band, byteOf d.lines]

/-- The ciphertext of a band's bytes under a slot's key (R147). -/
def bandCrypt (key : BitVec 256) (slot : Nat) (d : Descriptor) (bytes : List Byte) : List Byte :=
  Cipher.crypt key (bandNonce slot d) bytes

/-- The integrity tag of a band's ciphertext (R147, R164). -/
def bandTag (key : BitVec 256) (slot : Nat) (d : Descriptor) (cipher : List Byte) : BitVec 128 :=
  Cipher.tag key (bandNonce slot d) (bandData d) cipher

/-- The first byte of a band's run in image memory (R144). -/
def Descriptor.address (d : Descriptor) : Nat := d.firstExtent * Config.extentBytes

/-- The page is complete: the slot's pages rises, the port is WAITING, and the page end claim charges 1 SCAN unit
and 1 page; a CLOSING job then settles (R43, R143). -/
def completePage (s : State) : State :=
  let s1 :=
    match s.captureUnit.boundSlot with
    | none => s
    | some n => putSlot n { keySlot s n with pages := (keySlot s n).pages + 1 } s
  let s2 := { s1 with captureUnit := { s1.captureUnit with phase := .waiting, page := none } }
  match s2.captureUnit.boundTag.bind (jobOfTag s2) with
  | none => s2
  | some (k, j) =>
    let j' := { j with
      committed := { j.committed with scan := j.committed.scan - 1 }
      charged := { j.charged with scan := j.charged.scan + 1 }
      pagesCaptured := j.pagesCaptured + 1 }
    let s3 := putJob k j' s2
    let s4 := updateAccount (j.owner.getD 0) (fun a => a.charge ⟨0, 0, 1⟩ ⟨0, 0, 1⟩) s3
    settleIfDone k s4

/-- A page in FINISHING whose every band is written completes (R143). -/
def completeIfWritten (s : State) : State :=
  if s.captureUnit.phase = .finishing ∧ s.captureUnit.handedOff = [] then completePage s else s

/-- The page is dropped for exhaustion of image memory or descriptors (R148). -/
def exhaust (s : State) : State := raise .imageFull (dropAndStop true .imageFull s)

/-- The filling band is handed off: descriptor, extents, band list, total bytes, store to the writer (R146).
`none` when no descriptor or no run is free: then nothing is taken. -/
def handOff (s : State) : Option State :=
  let u := s.captureUnit
  match u.filling, u.page, u.boundSlot, u.format with
  | some store, some page, some slot, some format =>
    let length := store.lines * format.lineBytes
    let count := extentsFor length
    match Table.lowest (fun n => (Table.find u.descriptors n).isNone) Config.descriptorCount 0, firstFit count 0 u.extents with
    | some n, some first =>
      let d : Descriptor :=
        { page := page.number, band := page.bands + 1, lines := store.lines, length := length
          firstExtent := first, extentCount := count, tag := none }
      let handed := u.handedOff ++ [⟨n, store.bytes⟩]
      let x := keySlot s slot
      let s1 := putSlot slot { x with bands := x.bands ++ [n], totalBytes := x.totalBytes + length } s
      some { s1 with captureUnit :=
        { u with
          descriptors := Table.put u.descriptors n d
          extents := ownRun first count u.extents
          handedOff := handed
          filling := if handed.length < 2 then some .blank else none
          page := some { page with bands := page.bands + 1 } } }
    | _, _ => none
  | _, _, _, _ => none

/-- The page's lines have ended: FINISHING, and complete at once if every band is already written (R141 to R143). -/
def finishPage (s : State) : State :=
  completeIfWritten { s with captureUnit := { s.captureUnit with phase := .finishing } }

/-- The page ends at the line limit: FINISHING, and CAPTURE_STOP KEPT is sent (R141). -/
def endAtLimit (s : State) : State :=
  finishPage (sendStatus (captureStop false) s)

end Sys2Proof.Machine
end

