-- ==== Sys2Proof/Machine/Accounts.lean ====
section
/-! DEFINITION. The commands of the account unit (R11 to R28) and its credential checker (R22, R23). -/
namespace Sys2Proof.Machine

/-! ### Checks shared by the account commands -/

/-- The checks of R11 after the fields: STANDBY, then the lookup of the account. -/
def onAccount (number : Nat) (s : State) (f : Nat → Account → Answered) : Answered :=
  inRun s (withAccount number s f)

/-- A command on an account that is refused with BAD_STATE if the account is RETIRING. -/
def onKeptAccount (number : Nat) (s : State) (f : Nat → Account → Answered) : Answered :=
  onAccount number s fun i a => if a.state = .retiring then refuse .badState s else f i a

/-- A command whose one field is an account number (R11). -/
def numberHandler (f : Nat → State → Answered) : Handler := fun body s =>
  let number := u16 body 0
  if numberOk number then some (f number s) else none

/-! ### ADD_ACCOUNT (R12) -/

/-- A new ACTIVE entry (R12). -/
def Account.opened (number group : Nat) (unlimited : Bool) (opening : Amounts) : Account :=
  { Account.free false with
    state := .active, number := some number, group := group, unlimited := unlimited, balance := opening }

/-- The lowest-indexed FREE entry (R1). -/
def lowestFree (s : State) : Option Nat :=
  Table.lowest (fun i => (account s i).state == .free) Config.accountCount 0

/-- ADD_ACCOUNT at the account unit (R12). -/
def addAccount (number group : Nat) (unlimited : Bool) (opening : Amounts) (s : State) : Answered :=
  inRun s <|
    if (accountIndex s number).isSome then refuse .exists s
    else match lowestFree s with
      | none => refuse .tableFull s
      | some i => ok (le 2 i) (updateAccount i (fun _ => .opened number group unlimited opening) s)

/-- The fields of ADD_ACCOUNT (R12). -/
def addAccountHandler : Handler := fun body s =>
  let number := u16 body 0
  let group := u8 body 2
  let unlimited := u8 body 3
  let opening := amountsAt body 4
  if numberOk number ∧ group < Config.groupCount ∧ yesNo unlimited ∧ (unlimited = 1 → opening = .zero) then
    some (addAccount number group (unlimited == 1) opening s)
  else none

/-- ADD_ACCOUNT. -/
def execAddAccount (r : Request) (s : State) : Host.Outcome State Fault Refusal :=
  .next (command 16 16 addAccountHandler r s)

/-! ### CREDIT_ACCOUNT (R13) -/

/-- The class that a class field names (1.3). -/
def classOf : Nat → Option UnitClass
  | 0 => some .mono
  | 1 => some .colour
  | 2 => some .scan
  | _ => none

/-- An amount in one class. -/
def Amounts.only (c : UnitClass) (n : Nat) : Amounts := Amounts.zero.set c n

/-- CREDIT_ACCOUNT at the account unit: a credit, or a debit (R13). -/
def creditAccount (number : Nat) (c : UnitClass) (debit : Bool) (amount : Nat) (s : State) : Answered :=
  onKeptAccount number s fun i a =>
    if a.unlimited then refuse .notAllowed s
    else if debit then
      if a.balance.get c < amount then refuse .noBalance s
      else
        let left := a.balance.get c - amount
        ok (le 3 left ++ flag false) (updateAccount i (fun a => { a with balance := a.balance.set c left }) s)
    else
      let s1 := updateAccount i (fun a => a.credit (.only c amount)) s
      ok (le 3 ((account s1 i).balance.get c) ++ flag (decide (Config.maxAmount < a.balance.get c + amount))) s1

/-- The fields of CREDIT_ACCOUNT (R13). -/
def creditAccountHandler : Handler := fun body s =>
  let number := u16 body 0
  let sign := u8 body 3
  match classOf (u8 body 2) with
  | none => none
  | some c => if numberOk number ∧ yesNo sign then some (creditAccount number c (sign == 1) (u24 body 4) s) else none

/-- CREDIT_ACCOUNT. -/
def execCreditAccount (r : Request) (s : State) : Host.Outcome State Fault Refusal :=
  .next (command 17 8 creditAccountHandler r s)

/-! ### SET_ACCOUNT_GROUP (R14) -/

/-- SET_ACCOUNT_GROUP at the account unit (R14). -/
def setAccountGroup (number group : Nat) (s : State) : Answered :=
  onKeptAccount number s fun i _ => ok [] (updateAccount i (fun a => { a with group := group }) s)

/-- The fields of SET_ACCOUNT_GROUP (R14). -/
def setAccountGroupHandler : Handler := fun body s =>
  let number := u16 body 0
  let group := u8 body 2
  if numberOk number ∧ group < Config.groupCount then some (setAccountGroup number group s) else none

/-- SET_ACCOUNT_GROUP. -/
def execSetAccountGroup (r : Request) (s : State) : Host.Outcome State Fault Refusal :=
  .next (command 18 4 setAccountGroupHandler r s)

/-! ### SET_CREDENTIAL (R15) -/

/-- The digest of a credential: none for one of length 0 (R15). -/
def digestOf (credential : List Byte) : Option CredentialDigest :=
  if credential = [] then none else some ⟨credential⟩

/-- SET_CREDENTIAL at the account unit (R15). -/
def setCredential (number : Nat) (credential : List Byte) (s : State) : Answered :=
  onKeptAccount number s fun i _ =>
    ok [] (updateAccount i (fun a => { a with digest := digestOf credential, failed := 0 }) s)

/-- The length of a presented or stored credential (R15, R22). -/
def credentialLength (n : Nat) : Bool := decide (8 ≤ n) && decide (n ≤ 32)

/-- The fields of SET_CREDENTIAL; bytes beyond the credential length are ignored (R15). -/
def setCredentialHandler : Handler := fun body s =>
  let number := u16 body 0
  let length := u8 body 2
  if numberOk number ∧ (length = 0 ∨ credentialLength length) then
    some (setCredential number ((body.drop 3).take length) s)
  else none

/-- SET_CREDENTIAL. -/
def execSetCredential (r : Request) (s : State) : Host.Outcome State Fault Refusal :=
  .next (command 19 36 setCredentialHandler r s)

/-! ### SUSPEND_ACCOUNT, RESUME_ACCOUNT (R19, R21) -/

/-- SUSPEND_ACCOUNT at the account unit (R19, R20). -/
def suspendAccount (number : Nat) (s : State) : Answered :=
  onAccount number s fun i a => if a.state = .active then ok [] (suspend i .byHost s) else refuse .badState s

/-- SUSPEND_ACCOUNT. -/
def execSuspendAccount (r : Request) (s : State) : Host.Outcome State Fault Refusal :=
  .next (command 20 4 (numberHandler suspendAccount) r s)

/-- RESUME_ACCOUNT at the account unit (R21). -/
def resumeAccount (number : Nat) (s : State) : Answered :=
  onAccount number s fun i a =>
    match a.state with
    | .suspended _ => ok [] (updateAccount i (fun a => { a with state := .active, failed := 0 }) s)
    | _ => refuse .badState s

/-- RESUME_ACCOUNT. -/
def execResumeAccount (r : Request) (s : State) : Host.Outcome State Fault Refusal :=
  .next (command 21 4 (numberHandler resumeAccount) r s)

/-! ### RETIRE_ACCOUNT (R24, R25) -/

/-- The erase requests of a retirement: one for every key slot the account owns (R25). -/
def eraseOwned (i : Nat) (s : State) : State := (slotsOwned i s).foldl eraseForRetirement s

/-- The entry of an account becomes RETIRING while it has open jobs, else FREE; its slots are erased in the same
event, and stop requests are issued (R24, R25). -/
def retire (i : Nat) (s : State) : State :=
  if (account s i).openJobs = 0 then
    issueStops i .accountRetiring (updateAccount i (fun _ => .retired) (eraseOwned i s))
  else
    issueStops i .accountRetiring (eraseOwned i (updateAccount i (fun a => { a with state := .retiring }) s))

/-- RETIRE_ACCOUNT at the account unit (R24). -/
def retireAccount (number : Nat) (s : State) : Answered :=
  onKeptAccount number s fun i a =>
    ok (packAmounts a.balance ++ packAmounts a.held ++ packLifetimes a.lifetime) (retire i s)

/-- RETIRE_ACCOUNT. -/
def execRetireAccount (r : Request) (s : State) : Host.Outcome State Fault Refusal :=
  .next (command 22 4 (numberHandler retireAccount) r s)

/-! ### READ_ACCOUNT, FIND_ACCOUNT (R16, R17) -/

/-- The response body of READ_ACCOUNT (R16, log 19). -/
def accountBody (i : Nat) (a : Account) : List Byte :=
  le 2 i ++ [byteOf a.state.code] ++ optional 1 (fun w => [byteOf w.code]) a.state.reason ++
  [byteOf a.group] ++ flag a.unlimited ++
  packAmounts a.balance ++ packAmounts a.held ++ packLifetimes a.lifetime ++
  flag a.countSaturated ++ flag a.creditClipped ++ flag a.digest.isSome ++
  [byteOf a.failed, byteOf a.openJobs, byteOf a.heldScans] ++ flag a.preserved

/-- READ_ACCOUNT at the account unit, taken in STANDBY too (R16). -/
def readAccount (number : Nat) (s : State) : Answered := withAccount number s fun i a => ok (accountBody i a) s

/-- READ_ACCOUNT. -/
def execReadAccount (r : Request) (s : State) : Host.Outcome State Fault Refusal :=
  .next (command 23 4 (numberHandler readAccount) r s)

/-- The two modes of FIND_ACCOUNT (R17). -/
inductive FindMode where
  | number | next
  deriving DecidableEq, Repr

/-- The lowest-indexed non-FREE entry at or above an index (R17). -/
def nextAccount (from_ : Nat) (s : State) : Option (Nat × Account) :=
  s.accountUnit.accounts.find? fun e => decide (from_ ≤ e.1) && e.2.state != .free

/-- FIND_ACCOUNT at the account unit (R17); both modes answer bodies of one length (R215, log 19). -/
def findAccount (mode : FindMode) (key : Nat) (s : State) : Answered :=
  inRun s <|
    match mode with
    | .number => withAccount key s fun i a => ok (le 2 i ++ [byteOf a.state.code] ++ List.replicate 5 0) s
    | .next =>
      match nextAccount key s with
      | none => refuse .noEntry s
      | some (i, a) => ok (le 2 i ++ le 2 (a.number.getD 0) ++ [byteOf a.state.code]) s

/-- The fields of FIND_ACCOUNT (R17). -/
def findAccountHandler : Handler := fun body s =>
  let key := u16 body 1
  match u8 body 0 with
  | 0 => if numberOk key then some (findAccount .number key s) else none
  | 1 => if key < Config.accountCount then some (findAccount .next key s) else none
  | _ => none

/-- FIND_ACCOUNT. -/
def execFindAccount (r : Request) (s : State) : Host.Outcome State Fault Refusal :=
  .next (command 24 4 findAccountHandler r s)

/-! ### CLEAR_COUNTERS (R18) -/

/-- CLEAR_COUNTERS at the account unit (R18). -/
def clearCounters (number : Nat) (s : State) : Answered :=
  onKeptAccount number s fun i a =>
    ok (packLifetimes a.lifetime ++ flag a.countSaturated ++ flag a.creditClipped)
      (updateAccount i (fun a => { a with lifetime := .zero, countSaturated := false, creditClipped := false }) s)

/-- CLEAR_COUNTERS. -/
def execClearCounters (r : Request) (s : State) : Host.Outcome State Fault Refusal :=
  .next (command 25 4 (numberHandler clearCounters) r s)

/-! ### The group policy commands (R28) -/

/-- A group policy whose values are in their ranges (R27, R28). -/
def GroupPolicy.legal (p : GroupPolicy) : Bool :=
  decide (1 ≤ p.maxOpenJobs) && decide (p.maxOpenJobs ≤ 8) && decide (p.maxHeldScans ≤ 48) &&
  decide (1 ≤ p.maxHoldMinutes) && decide (p.maxHoldMinutes ≤ 1440)

/-- SET_GROUP_POLICY at the account unit; a change clears the table's preserved flag (R28). -/
def setGroupPolicy (g : Nat) (p : GroupPolicy) (s : State) : Answered :=
  inRun s <|
    if groupPolicy s g = p then ok [] s
    else
      let u := s.accountUnit
      ok [] (touchGroups
        { s with accountUnit := { u with groups := Table.write .default u.groups g p, groupsPreserved := false } })

/-- The fields of SET_GROUP_POLICY (R28). -/
def setGroupPolicyHandler : Handler := fun body s =>
  let g := u8 body 0
  let p : GroupPolicy :=
    { colourAllowed := u8 body 1 == 1, scanAllowed := u8 body 2 == 1, maxOpenJobs := u8 body 3
      maxHeldScans := u8 body 4, maxHoldMinutes := u16 body 5 }
  if g < Config.groupCount ∧ yesNo (u8 body 1) ∧ yesNo (u8 body 2) ∧ p.legal then some (setGroupPolicy g p s) else none

/-- SET_GROUP_POLICY. -/
def execSetGroupPolicy (r : Request) (s : State) : Host.Outcome State Fault Refusal :=
  .next (command 26 8 setGroupPolicyHandler r s)

/-- The response body of READ_GROUP_POLICY (R28). -/
def groupPolicyBody (p : GroupPolicy) (preserved : Bool) : List Byte :=
  flag p.colourAllowed ++ flag p.scanAllowed ++ [byteOf p.maxOpenJobs, byteOf p.maxHeldScans] ++
  le 2 p.maxHoldMinutes ++ flag preserved

/-- READ_GROUP_POLICY at the account unit, taken in STANDBY too (R28). -/
def readGroupPolicy (g : Nat) (s : State) : Answered :=
  ok (groupPolicyBody (groupPolicy s g) s.accountUnit.groupsPreserved) s

/-- The field of READ_GROUP_POLICY (R28). -/
def readGroupPolicyHandler : Handler := fun body s =>
  let g := u8 body 0
  if g < Config.groupCount then some (readGroupPolicy g s) else none

/-- READ_GROUP_POLICY. -/
def execReadGroupPolicy (r : Request) (s : State) : Host.Outcome State Fault Refusal :=
  .next (command 27 4 readGroupPolicyHandler r s)

/-! ### The credential checker (R22, R23) -/

/-- The answers of a credential check (R22). -/
inductive CredentialAnswer where
  | noCredential | isMatch | mismatch
  deriving DecidableEq, Repr

/-- Failed attempts have reached 3: the account is SUSPENDED for LOCKOUT (R23). -/
def lockOut (i : Nat) (s : State) : State := raise .lockout (suspend i .lockout s)

/-- A credential is checked against the stored digest of the account at an index (R22). -/
def checkCredential (i : Nat) (credential : List Byte) (s : State) : CredentialAnswer × State :=
  let a := account s i
  if a.digest = none then (.noCredential, s)
  else if a.digest = digestOf credential then (.isMatch, updateAccount i (fun a => { a with failed := 0 }) s)
  else
    let failed := a.failed + 1
    let s1 := updateAccount i (fun a => { a with failed := failed }) s
    (.mismatch, if failed < 3 then s1 else lockOut i s1)

end Sys2Proof.Machine
end

