-- ==== Sys2Proof/Machine/Exchange.lean ====
section
/-! DEFINITION. The shared operations of the station unit: changes of state, the exchange queue and its
attempts (R85, R91 to R95), the choice of state after a proof (R101), re-checks (R103), the rotation's slot
(R124) and dose metering (R111 to R115). -/
namespace Sys2Proof.Machine

/-- The four lost states (R84). -/
def StationState.lost : StationState → Bool
  | .exhausted | .rejected | .unreachable | .lineFault => true
  | _ => false

/-- The states that permit a sheet (R85). -/
def StationState.permits : StationState → Bool
  | .genuine | .rechecking | .grace => true
  | _ => false

/-- The states that accept a YIELD_WRITE (R91). -/
def StationState.acceptsWrite : StationState → Bool
  | .genuine | .rechecking | .grace | .exhausted => true
  | _ => false

/-- A short is on the line (R84). -/
def LineCondition.short : LineCondition → Bool
  | .shortLow | .shortHigh => true
  | _ => false

/-- The condition of a short (R89). -/
def shortCondition : ShortKind → LineCondition
  | .low => .shortLow
  | .high => .shortHigh

/-- The kind of an exchange (R91). -/
def Exchange.kind : Exchange → ExchangeKind
  | .identRead => .identRead
  | .proof _ => .proof
  | .yieldWrite _ _ _ => .yieldWrite

/-- The station enters a state: STATION_CHANGED is raised on a change (R85), and entry into a lost state sends
the station-lost request (R106). -/
def enterState (st : Station) (new : StationState) (s : State) : State :=
  let x := station s st
  if x.state = new then s
  else
    let s1 := putStation st { x with state := new } s
    let s2 := if new.lost then stationLost st s1 else s1
    raise .stationChanged s2

/-- The draw in progress is this client's, and the output was returned by no earlier draw: only then can the draw
end with it (R133, log 4). -/
def mayReturn (client : DrawClient) (output : DrawOutput) (s : State) : Bool :=
  s.randomSource.draws.head? == some client && !s.randomSource.returned.contains output

/-- The draw in progress has ended with an output (R133). -/
def endDraw (output : DrawOutput) (s : State) : State :=
  { s with randomSource :=
    { s.randomSource with draws := s.randomSource.draws.tail, returned := output :: s.randomSource.returned } }

/-- Whether an exchange of a kind may start: a PROOF not while the random source is UNHEALTHY (R92). -/
def startable (h : Health) (kind : ExchangeKind) : Bool := kind != .proof || h == .healthy

/-- What an exchange of a kind fixes at its start (R92, R117). -/
def StationRecord.begin (x : StationRecord) : ExchangeKind → Exchange
  | .identRead => .identRead
  | .proof => .proof none
  | .yieldWrite => .yieldWrite x.remaining x.toggle x.unwritten

/-- A station with no exchange in flight starts the first exchange of its queue that may start; a PROOF asks
the random source for its nonce (R92). -/
def startNext (st : Station) (s : State) : State :=
  let x := station s st
  match x.inFlight, x.queue.find? (startable s.randomSource.health) with
  | none, some kind =>
    let s1 := putStation st { x with queue := x.queue.erase kind, inFlight := some ⟨x.begin kind, 1⟩ } s
    if kind = .proof then
      { s1 with randomSource := { s1.randomSource with draws := s1.randomSource.draws ++ [.nonce st] } }
    else s1
  | _, _ => s

/-- A request of a kind: merged with one pending, else queued, and started at an idle station (R91, R92). -/
def enqueue (st : Station) (kind : ExchangeKind) (s : State) : State :=
  let x := station s st
  if x.queue.contains kind then s
  else startNext st (putStation st { x with queue := x.queue ++ [kind] } s)

/-- A YIELD_WRITE is requested; a state that does not accept it declines it (R91). -/
def requestWrite (st : Station) (s : State) : State :=
  if (station s st).state.acceptsWrite then enqueue st .yieldWrite s else s

/-- No exchange is in flight any more, and no draw of the station's is asked for (R95, log 5). -/
def clearExchange (st : Station) (s : State) : State :=
  let s1 := putStation st { station s st with inFlight := none } s
  { s1 with randomSource :=
    { s1.randomSource with draws := s1.randomSource.draws.filter (fun d => d != .nonce st) } }

/-- The exchange in flight is cancelled and the queue emptied; the reject reason becomes absent (R88, R89, R95). -/
def cancelAll (st : Station) (s : State) : State :=
  let s1 := clearExchange st s
  putStation st { station s1 st with queue := [], rejectReason := none } s1

/-- The station enters PROBING and IDENT_READ is queued (R87, R89, R105, R109, R110). -/
def probe (st : Station) (s : State) : State := enqueue st .identRead (enterState st .probing s)

/-- The station is rejected: its queue is emptied (R97, R102). -/
def reject (st : Station) (why : RejectReason) (s : State) : State :=
  enterState st .rejected (putStation st { station s st with queue := [], rejectReason := some why } s)

/-- An attempt fails: the link error count rises, and the request is sent again, or after the third attempt the
exchange ends as failed and the station is UNREACHABLE (R93, R94). -/
def failAttempt (st : Station) (s : State) : State :=
  let x := station s st
  match x.inFlight with
  | none => s
  | some f =>
    let errors := satAdd 255 x.linkErrors 1
    if f.attempt < 3 then
      putStation st { x with linkErrors := errors, inFlight := some { f with attempt := f.attempt + 1 } } s
    else
      let s1 := putStation st { x with linkErrors := errors, inFlight := none, queue := [] } s
      let s2 := enterState st .unreachable s1
      match f.exchange with
      | .yieldWrite _ _ _ => raise .writeBackFailed s2
      | _ => s2

/-- The state a proven cartridge takes: by remaining yield, and by grace used against allowance (R101, R113). -/
def StationRecord.proven (x : StationRecord) : StationState :=
  if 0 < x.remaining then .genuine
  else if x.graceUsed < x.graceAllowance then .grace
  else .exhausted

/-- The fields after the cartridge's stored value is heard from a cartridge of the retained serial: the lower of
the two counts, and what is left unwritten (R98, R101, R119, R120). -/
def StationRecord.heard (x : StationRecord) (stored : Nat) : StationRecord :=
  let remaining := min x.remaining stored
  { x with remaining := remaining, written := stored, unwritten := stored - remaining }

/-- A re-check request: GENUINE and GRACE go to RECHECKING with PROOF queued; any other state is left (R103). -/
def recheck (st : Station) (s : State) : State :=
  let x := station s st
  if x.state = .genuine ∨ x.state = .grace then enqueue st .proof (enterState st .rechecking s) else s

/-- The remaining yield of a GENUINE station has come to 0: it enters GRACE or EXHAUSTED, and a YIELD_WRITE is
requested if any dose is unwritten (R113). -/
def runsOut (st : Station) (s : State) : State :=
  let x := station s st
  if x.state = .genuine then
    let s1 := enterState st x.proven s
    if 0 < (station s1 st).unwritten then requestWrite st s1 else s1
  else s

/-- A grace side: counted in GRACE and RECHECKING; in GRACE the allowance's end exhausts the station (R114). -/
def graceSide (st : Station) (s : State) : State :=
  let x := station s st
  if x.state = .grace ∨ x.state = .rechecking then
    let used := satAdd 255 x.graceUsed 1
    let s1 := putStation st { x with graceUsed := used } s
    if x.state = .grace ∧ x.graceAllowance ≤ used then enterState st .exhausted s1 else s1
  else s

/-- The unwritten dose that the write-back test looks at: above the base while a YIELD_WRITE is in flight (R115). -/
def StationRecord.aboveBase (x : StationRecord) : Nat :=
  match x.inFlight with
  | some ⟨.yieldWrite _ _ base, _⟩ => x.unwritten - base
  | _ => x.unwritten

/-- The write-back test after a dose (R115). While a write is in flight it is made above the base, so that a dose that
brings the unwritten dose to 20,000 behind a write of WRITE_BACK_YIELD requests none, where R127's last bullet says that
one is queued behind it: DESIGN CHOICE, log 31; unsafe in that meeting. -/
def writeBackTest (st : Station) (s : State) : State :=
  let x := station s st
  if Config.writeBackThreshold ≤ x.aboveBase ∧ ¬ x.queue.contains .yieldWrite then requestWrite st s else s

/-- The low-yield test: raised once for each cartridge, at or below 5% of the rated yield (R112). -/
def lowYieldTest (st : Station) (rated : Nat) (s : State) : State :=
  let x := station s st
  if x.lowRaised = false ∧ 20 * x.remaining ≤ rated then
    raise .yieldLow (putStation st { x with lowRaised := true } s)
  else s

/-- One dose is metered against the retained serial, and the tests follow in their order (R111). -/
def meterDose (st : Station) (dose : Nat) (s : State) : State :=
  let x := station s st
  match x.cartridge with
  | none => s
  | some cartridge =>
    let fall := min dose x.remaining
    let s1 := putStation st { x with remaining := x.remaining - fall, unwritten := x.unwritten + fall } s
    let s2 := lowYieldTest st cartridge.rated s1
    let s3 := if x.remaining = 0 then graceSide st s2 else if x.remaining ≤ dose then runsOut st s2 else s2
    writeBackTest st s3

/-- A dose of the dose block: one of 0 is not passed (R74). -/
def passDose (st : Station) (dose : BitVec 16) (s : State) : State :=
  if dose.toNat = 0 then s else meterDose st dose.toNat s

/-- A report's doses of one station: side 1, then side 2 of a duplex sheet (R74). -/
def passStation (sides : Nat) (r : SheetReport) (s : State) (st : Station) : State :=
  let s1 := passDose st (r.doses1.get st) s
  if sides = 2 then passDose st (r.doses2.get st) s1 else s1

/-- A report's doses are handed over, station by station in order (R74). -/
def passDoses (sides : Nat) (r : SheetReport) (s : State) : State :=
  Station.list.foldl (passStation sides r) s

/-- The rotation takes the slot at its pointer: the counter becomes 0, a GENUINE or GRACE station named there is
re-checked, the pointer moves on (R124). -/
def takeSlot (s : State) : State :=
  let r := s.stationUnit.rotation
  let next := if r.count ≤ r.pointer + 1 then 0 else r.pointer + 1
  let s1 := { s with stationUnit := { s.stationUnit with rotation := { r with counter := 0, pointer := next } } }
  match r.slots.getD r.pointer none with
  | none => s1
  | some st => recheck st s1

/-- The interval is complete: the counter has come to 2v (R123, R124). -/
def intervalComplete (s : State) : Bool :=
  decide (2 * s.stationUnit.rotation.interval ≤ s.stationUnit.rotation.counter)

/-- A delivered sheet raises the sheet counter by 1; at 2v the rotation takes its slot (R80, R124). -/
def countSheet (s : State) : State :=
  let r := s.stationUnit.rotation
  let s1 := { s with stationUnit := { s.stationUnit with rotation := { r with counter := r.counter + 1 } } }
  if intervalComplete s1 then takeSlot s1 else s1

/-- The state that sensed presence and condition give, with no notice; IDENT_READ is queued on entry to
PROBING (R109, R110). -/
def sensedState (line : LineInput) : StationState :=
  if line.condition.short then .lineFault else if line.presence then .probing else .empty

/-- A station takes what its monitor senses afresh: presence, condition, the state they give, and IDENT_READ if
that is PROBING (R109, R110). `noted` says whether a change of state raises STATION_CHANGED. -/
def senseStation (noted : Bool) (s : State) (st : Station) : State :=
  let line := s.lines.get st
  let x := station s st
  let new := sensedState line
  let y := { x with state := new, presence := line.presence, condition := line.condition, rejectReason := none }
  let s1 := putStation st y s
  let s2 := if new.lost then stationLost st s1 else s1
  let s3 := raiseIf (noted && x.state != new) .stationChanged s2
  if new = .probing then enqueue st .identRead s3 else s3

end Sys2Proof.Machine
end

