-- ==== Sys2Proof/Machine/Jobs.lean ====
section
/-! DEFINITION. The commands of the job unit (R36 to R52) and its taking of a stop request (R44). -/
namespace Sys2Proof.Machine

/-! ### OPEN_JOB (R37 to R39) -/

/-- The fields of OPEN_JOB (R37). -/
structure OpenFields where
  number : Nat
  kind : JobKind
  request : Amounts
  hold : Nat
  pixels : Nat
  bytesPerPixel : Nat
  deriving DecidableEq, Repr

/-- The ranges and forbidden combinations of R37. -/
def OpenFields.legal (f : OpenFields) : Bool :=
  numberOk f.number && decide (f.hold ≤ 1440) && f.request != .zero &&
  match f.kind with
  | .print => f.request.scan == 0 && f.hold == 0 && f.pixels == 0 && f.bytesPerPixel == 0
  | .scan => f.request.mono == 0 && f.request.colour == 0 && decide (16 ≤ f.pixels) && decide (f.pixels ≤ 7680) &&
      (f.bytesPerPixel == 1 || f.bytesPerPixel == 3)

/-- The line format an OPEN_JOB gives: a SCAN job's (R33). -/
def OpenFields.format (f : OpenFields) : Option LineFormat :=
  if f.kind = .scan then some ⟨f.pixels, f.bytesPerPixel⟩ else none

/-- The tag that follows `last`, stepping upward and wrapping from 255 to 1, passing over held tags (R34). -/
def nextTag (held : Nat → Bool) : (fuel last : Nat) → Nat
  | 0, last => last
  | fuel + 1, last =>
    let t := if 255 ≤ last then 1 else last + 1
    if held t then nextTag held fuel t else t

/-- The refusal that the owner's state gives (R37 check 2, R40 check 3, R163 check 4). -/
def AccountState.refusal : AccountState → Option Response
  | .active => none
  | .suspended .lockout => some .lockedOut
  | _ => some .badState

/-- The owner's group allows the job (R37 check 5). -/
def groupAllows (f : OpenFields) (a : Account) (p : GroupPolicy) : Bool :=
  decide (a.openJobs < p.maxOpenJobs) &&
  match f.kind with
  | .print => f.request.colour == 0 || p.colourAllowed
  | .scan => p.scanAllowed && decide (a.heldScans < p.maxHeldScans)

/-- The lowest-numbered EMPTY key slot (R134). -/
def emptySlot (s : State) : Option Nat :=
  Table.lowest (fun n => (keySlot s n).state == .empty) Config.slotCount 0

/-- The lowest-numbered empty job entry (R39). -/
def emptyEntry (s : State) : Option Nat :=
  Table.lowest (fun k => (Table.find s.jobUnit.jobs k).isNone) Config.jobCount 0

/-- Checks 2 to 8 of R37, in their order. -/
def openRefusal (f : OpenFields) (a : Account) (s : State) : Option Response :=
  if a.state.refusal.isSome then a.state.refusal
  else if faulted s then some .faulted
  else if emptyEntry s = none then some .tableFull
  else if !groupAllows f a (groupPolicy s a.group) then some .notAllowed
  else if f.kind = .scan ∧ emptySlot s = none then some .tableFull
  else if f.kind = .scan ∧ s.randomSource.health = .unhealthy then some .keygenFailed
  else if f.kind = .scan ∧ s.captureUnit.phase ≠ .unbound then some .scannerBusy
  else none

/-- The entry of a job as it is opened (R39). -/
def openedJob (f : OpenFields) (owner tag : Nat) (grant : Amounts) : Job :=
  { tag := tag, kind := f.kind, owner := some owner, ownerNumber := f.number, state := .ready
    stopReason := none, endKind := none, reserved := grant, committed := .zero, charged := .zero
    stationsUsed := .all false, delivered := 0, jammed := 0, lapsed := 0, pagesCaptured := 0
    slot := none, format := f.format, holdRequest := f.hold }

/-- The response body of OPEN_JOB (R39). -/
def openBody (tag : Nat) (grant : Amounts) (slot : Option Nat) : List Byte :=
  [byteOf tag] ++ packAmounts grant ++ optional 1 (fun n => [byteOf n]) slot

/-- The stop requests still to be taken once a new job takes a tag: one issued for an earlier job of that tag,
dismissed since, finds no job and goes (R34, R44, log 13). -/
def stopsKept (tag : Nat) (requests : List (Nat × StopReason)) : List (Nat × StopReason) :=
  requests.filter fun e => e.1 != tag

/-- The job is opened: the entry filled, the grant moved, open jobs up by 1 (R38, R39). -/
def openEntry (f : OpenFields) (i k tag : Nat) (grant : Amounts) (s : State) : State :=
  let s1 := updateAccount i (fun a => { a.reserve grant with openJobs := a.openJobs + 1 }) s
  let s2 := putJob k (openedJob f i tag grant) s1
  { s2 with jobUnit :=
    { s2.jobUnit with lastTag := tag, stopRequests := stopsKept tag s2.jobUnit.stopRequests } }

/-- A SCAN job waits for its key: the draw is asked for, and the answer waits with it (R39, R135, log 20). -/
def awaitKey (tag : Nat) (s : State) : State :=
  { s with
    randomSource := { s.randomSource with draws := s.randomSource.draws ++ [.key] }
    controlPort := { s.controlPort with opening := some tag } }

/-- OPEN_JOB at the job unit (R37 to R39). -/
def openJob (f : OpenFields) (s : State) : Answered :=
  inRun s <| withAccount f.number s fun i a =>
    match openRefusal f a s with
    | some why => refuse why s
    | none =>
      let grant := a.grant f.request
      if grant = .zero then refuse .noBalance s
      else
        let tag := nextTag (fun t => (jobOfTag s t).isSome) 255 s.jobUnit.lastTag
        let s1 := openEntry f i ((emptyEntry s).getD 0) tag grant s
        match f.kind with
        | .print => ok (openBody tag grant none) s1
        | .scan => (none, awaitKey tag s1)

/-- The fields of OPEN_JOB's body (R37). -/
def openJobHandler : Handler := fun body s =>
  let f : OpenFields :=
    { number := u16 body 0, kind := if u8 body 2 = 1 then .scan else .print, request := amountsAt body 3
      hold := u16 body 12, pixels := u16 body 14, bytesPerPixel := u8 body 16 }
  if yesNo (u8 body 2) ∧ f.legal then some (openJob f s) else none

/-- OPEN_JOB. -/
def execOpenJob (r : Request) (s : State) : Host.Outcome State Fault Refusal :=
  .next (command 32 20 openJobHandler r s)

/-! ### Commands that name a job -/

/-- The checks of R36 after the fields: STANDBY, then the lookup of the job. -/
def onJob (tag : Nat) (s : State) (f : Nat → Job → Answered) : Answered := inRun s (withJob tag s f)

/-- A command whose one field is a tag (R36). -/
def tagHandler (f : Nat → State → Answered) : Handler := fun body s =>
  let tag := u8 body 0
  if tag = 0 then none else some (f tag s)

/-! ### EXTEND_JOB (R40) -/

/-- Checks 1 to 5 of R40, in their order. -/
def extendRefusal (j : Job) (a : Account) (p : GroupPolicy) (request : Amounts) : Option Response :=
  if ¬ (j.state = .ready ∨ j.state = .active ∨ j.state = .stopped) then some .badState
  else if j.stopReason = some .accountSuspended ∨ j.stopReason = some .accountRetiring then some .badState
  else if a.state.refusal.isSome then a.state.refusal
  else if j.kind = .print ∧ request.scan ≠ 0 then some .badField
  else if j.kind = .scan ∧ (request.mono ≠ 0 ∨ request.colour ≠ 0) then some .badField
  else if j.kind = .print ∧ request.colour ≠ 0 ∧ p.colourAllowed = false then some .notAllowed
  else none

/-- What an extension is granted: the account's grant, limited by the room left in reserved (R40). -/
def extendGrant (j : Job) (a : Account) (request : Amounts) : Amounts :=
  (a.grant request).lesser ((Amounts.all Config.maxAmount).sub j.reserved)

/-- EXTEND_JOB at the job unit (R40). -/
def extendJob (tag : Nat) (request : Amounts) (s : State) : Answered :=
  onJob tag s fun k j =>
    let i := j.owner.getD 0
    let a := account s i
    match extendRefusal j a (groupPolicy s a.group) request with
    | some why => refuse why s
    | none =>
      let grant := extendGrant j a request
      if grant = .zero then refuse .noBalance s
      else
        let reserved := j.reserved.add grant
        ok (packAmounts grant ++ packAmounts reserved)
          (putJob k { j with reserved := reserved } (updateAccount i (fun a => a.reserve grant) s))

/-- The fields of EXTEND_JOB (R40). -/
def extendJobHandler : Handler := fun body s =>
  let tag := u8 body 0
  let request := amountsAt body 1
  if tag ≠ 0 ∧ request ≠ .zero then some (extendJob tag request s) else none

/-- EXTEND_JOB. -/
def execExtendJob (r : Request) (s : State) : Host.Outcome State Fault Refusal :=
  .next (command 33 12 extendJobHandler r s)

/-! ### CLOSE_JOB and ABORT_JOB (R46, R47) -/

/-- The response body of CLOSE_JOB and ABORT_JOB: the state after the command and, when SETTLED, the amounts of
the return request (R46, log 27). -/
def endBody (j : Job) : List Byte :=
  [byteOf j.state.code] ++
  optional 9 packAmounts (if j.state = .settled then some (j.reserved.sub j.charged) else none)

/-- Answer with the entry as the command left it. -/
def answerEnd (k : Nat) (s : State) : Answered := ok (((Table.find s.jobUnit.jobs k).map endBody).getD []) s

/-- A job ends: CLOSING with its end kind, and settled at once where nothing is committed (R46, R47). -/
def endJob (k : Nat) (j : Job) (how : EndKind) (s : State) : State :=
  putJob k { j with state := .closing, endKind := some how } s

/-- CLOSE_JOB at the job unit (R46). -/
def closeJob (tag : Nat) (s : State) : Answered :=
  onJob tag s fun k j =>
    if j.state = .closing ∨ j.state = .settled then refuse .badState s
    else answerEnd k (settleIfDone k (endJob k j .close s))

/-- CLOSE_JOB. -/
def execCloseJob (r : Request) (s : State) : Host.Outcome State Fault Refusal :=
  .next (command 34 4 (tagHandler closeJob) r s)

/-- The page in capture of an aborted job is dropped, and the scanner is told (R47). -/
def dropForAbort (j : Job) (s : State) : State :=
  if j.kind = .scan ∧ 0 < j.committed.scan then pageDropClaim (sendStatus (captureStop true) (dropPage s)) else s

/-- ABORT_JOB at the job unit (R47). -/
def abortJob (tag : Nat) (s : State) : Answered :=
  onJob tag s fun k j =>
    if j.state = .settled ∨ (j.state = .closing ∧ j.endKind = some .abort) then refuse .badState s
    else answerEnd k (settleIfDone k (dropForAbort j (endJob k j .abort s)))

/-- ABORT_JOB. -/
def execAbortJob (r : Request) (s : State) : Host.Outcome State Fault Refusal :=
  .next (command 35 4 (tagHandler abortJob) r s)

/-! ### READ_JOB and DISMISS_JOB (R51, R52) -/

/-- A field that only SCAN jobs carry (R33). -/
def Job.ifScan {α : Type} (j : Job) (v : α) : Option α := if j.kind = .scan then some v else none

/-- The response body of READ_JOB (R51, log 19). That pages captured, line format and hold request, which SCAN jobs alone carry,
take a presence byte each and not one together is the model's choice (DESIGN CHOICE, log 19). -/
def jobBody (j : Job) : List Byte :=
  [byteOf j.tag, byteOf j.kind.code, byteOf j.state.code] ++ le 2 j.ownerNumber ++
  optional 2 (le 2) j.owner ++ optional 1 (fun w => [byteOf w.code]) j.stopReason ++
  optional 1 (fun w => [byteOf w.code]) j.endKind ++
  packAmounts j.reserved ++ packAmounts j.committed ++ packAmounts j.charged ++
  [byteOf (packStations j.stationsUsed)] ++ le 3 j.delivered ++ le 3 j.jammed ++ le 3 j.lapsed ++
  optional 1 (fun n => [byteOf n]) (j.ifScan j.pagesCaptured) ++
  optional 1 (fun n => [byteOf n]) j.slot ++
  optional 3 (fun f => le 2 f.pixels ++ [byteOf f.bytesPerPixel]) j.format ++
  optional 2 (le 2) (j.ifScan j.holdRequest)

/-- READ_JOB at the job unit, taken in STANDBY too (R51). -/
def readJob (tag : Nat) (s : State) : Answered := withJob tag s fun _ j => ok (jobBody j) s

/-- READ_JOB. -/
def execReadJob (r : Request) (s : State) : Host.Outcome State Fault Refusal :=
  .next (command 36 4 (tagHandler readJob) r s)

/-- DISMISS_JOB at the job unit (R52). -/
def dismissJob (tag : Nat) (s : State) : Answered :=
  onJob tag s fun k j =>
    if j.state = .settled then
      ok [] { s with jobUnit := { s.jobUnit with jobs := Table.drop s.jobUnit.jobs k } }
    else refuse .badState s

/-- DISMISS_JOB. -/
def execDismissJob (r : Request) (s : State) : Host.Outcome State Fault Refusal :=
  .next (command 37 4 (tagHandler dismissJob) r s)

/-! ### STOP_REQUEST (R44) -/

/-- Take the oldest stop request for a tag off the list of those issued. -/
def takeStop (tag : Nat) : List (Nat × StopReason) → Option (StopReason × List (Nat × StopReason))
  | [] => none
  | (t, why) :: rest =>
    if t = tag then some (why, rest) else (takeStop tag rest).map fun (w, l) => (w, (t, why) :: l)

/-- The job unit takes the oldest stop request issued for a tag (R20, R44, log 13). -/
def stopRequest (tag : Nat) (s : State) : State :=
  match takeStop tag s.jobUnit.stopRequests with
  | none => s
  | some (why, rest) => stopTag tag why { s with jobUnit := { s.jobUnit with stopRequests := rest } }

/-- STOP_REQUEST. -/
def execStopRequest (tag : Byte) (s : State) : Host.Outcome State Fault Refusal :=
  .next (whenUp (stopRequest tag.toNat) s)

end Sys2Proof.Machine
end

