-- ==== Sys2Proof/Machine/Capture.lean ====
section
/-! DEFINITION. The events of the capture port, the key draw, the band writer, and READ_CAPTURE (R129 to R154). -/
namespace Sys2Proof.Machine

/-! ### KEY_DRAW (R133, R135) -/

/-- A slot as it enters CAPTURING (R135). -/
def KeySlot.capturing (owner tag : Nat) (key : BitVec 256) : KeySlot :=
  { KeySlot.blank with state := .capturing, owner := some owner, jobTag := some tag, key := key }

/-- The port is bound to a job with its slot (R131). -/
def bindPort (tag slot : Nat) (format : Option LineFormat) (s : State) : State :=
  { s with captureUnit :=
    { s.captureUnit with phase := .waiting, boundTag := some tag, boundSlot := some slot, format := format
                         page := none } }

/-- The opened SCAN job takes a slot with its key, and the port is bound (R39, R131, R135). -/
def openScan (k : Nat) (j : Job) (slot : Nat) (key : BitVec 256) (s : State) : State :=
  let owner := j.owner.getD 0
  let s1 := putSlot slot (.capturing owner j.tag key) s
  let s2 := updateAccount owner (fun a => { a with heldScans := a.heldScans + 1 }) s1
  bindPort j.tag slot j.format (putJob k { j with slot := some slot } s2)

/-- The key draw in progress ends with a key: the slot is taken, and OPEN_JOB's answer is placed (R39, R135). -/
def keyDraw (key : BitVec 256) (s : State) : State :=
  if mayReturn .key (.key key) s then
    match s.controlPort.opening.bind (jobOfTag s), emptySlot s with
    | some (k, j), some slot =>
      place (.ok, pad4 (openBody j.tag j.reserved (some slot))) (openScan k j slot key (endDraw (.key key) s))
    | _, _ => s
  else s

/-- KEY_DRAW. -/
def execKeyDraw (key : BitVec 256) (s : State) : Host.Outcome State Fault Refusal := .next (whenUp (keyDraw key) s)

/-! ### PAGE_BEGIN (R138, R139) -/

/-- The job the port is bound to. -/
def boundJob (s : State) : Option (Nat × Job) := s.captureUnit.boundTag.bind (jobOfTag s)

/-- The first check of R138 that applies. -/
def pageRefusal (s : State) : Option RefuseReason :=
  let u := s.captureUnit
  if u.phase = .unbound then some .unbound
  else if u.phase = .receiving ∨ u.phase = .finishing then some .busy
  else if standby s then some .standby
  else match boundJob s with
    | none => some .jobState
    | some (_, j) =>
      if ¬ j.running ∨ u.boundSlot = none then some .jobState
      else if j.remaining.scan < 1 then some .spent
      else if 255 ≤ j.pagesCaptured then some .pageLimit
      else none

/-- The job's fields after a page begin claim (R43). -/
def Job.beginPage (j : Job) : Job :=
  { j with
    committed := { j.committed with scan := j.committed.scan + 1 }
    state := if j.state = .ready then .active else j.state }

/-- A PAGE_BEGIN is accepted (R139). -/
def acceptPage (k : Nat) (j : Job) (s : State) : State :=
  let number := j.pagesCaptured + 1
  let s1 := { s with captureUnit := { s.captureUnit with phase := .receiving, page := some ⟨number, 0, 0⟩ } }
  sendStatus (captureReady j.tag number) (putJob k j.beginPage s1)

/-- PAGE_BEGIN is decided (R138, R139). -/
def pageBegin (s : State) : State :=
  match pageRefusal s with
  | some why => raise .pageRefused (sendStatus (captureRefuse why) s)
  | none =>
    match boundJob s with
    | none => s
    | some (k, j) => acceptPage k j s

/-! ### LINE and LINE_LIMIT (R140, R141) -/

/-- A line that belongs to no page is discarded and counted (R130). -/
def discardLine (s : State) : State :=
  { s with captureUnit := { s.captureUnit with discarded := satAdd 65535 s.captureUnit.discarded 1 } }

/-- The page is dropped for a format fault (R140, R142, R149). -/
def formatFault (s : State) : State := dropAndStop true .scannerAbort s

/-- A line of the right length goes to the filling store (R140). -/
def appendLine (store : BandStore) (page : Page) (pixels : List Byte) (s : State) : State :=
  { s with captureUnit :=
    { s.captureUnit with filling := some ⟨store.lines + 1, store.bytes ++ pixels⟩
                         page := some { page with lines := page.lines + 1 } } }

/-- The filling store's band is handed off and the state goes on, or the page is dropped for exhaustion (R146). -/
def handOffThen (f : State → State) (s : State) : State :=
  match handOff s with
  | some t => f t
  | none => exhaust s

/-- A line taken in RECEIVING with the ready indication on (R140, R141). -/
def receiveLine (store : BandStore) (page : Page) (format : LineFormat) (pixels : List Byte) (s : State) : State :=
  if pixels.length ≠ format.lineBytes then formatFault s
  else
    let s1 := appendLine store page pixels s
    let rest := if Config.pageLines ≤ page.lines + 1 then endAtLimit else id
    if Config.bandLines ≤ store.lines + 1 then handOffThen rest s1 else rest s1

/-- A line is taken: into the page in RECEIVING, else discarded (R130, R140). It is taken with the ready indication
on only, so that in RECEIVING a store is filling (R145). -/
def line (pixels : List Byte) (s : State) : State :=
  let u := s.captureUnit
  if u.phase ≠ .receiving then discardLine s
  else match u.filling, u.page, u.format with
    | some store, some page, some format => receiveLine store page format pixels s
    | _, _, _ => s

/-- The lines left in the filling store are handed off, if there are any (R141, R142). -/
def handOffRest (f : State → State) (s : State) : State :=
  if (s.captureUnit.filling.map (·.lines)).getD 0 = 0 then f s else handOffThen f s

/-- LINE_LIMIT: a page that has come to 10,240 lines ends. LINE does so itself, so this finds nothing to do
after it (R141, log 15). -/
def lineLimit (s : State) : State :=
  match s.captureUnit.page with
  | none => s
  | some p =>
    if s.captureUnit.phase = .receiving ∧ Config.pageLines ≤ p.lines then handOffRest endAtLimit s else s

/-- LINE_LIMIT. -/
def execLineLimit (s : State) : Host.Outcome State Fault Refusal := .next (whenUp lineLimit s)

/-! ### PAGE_END and SCAN_ABORT (R142, R149) -/

/-- PAGE_END (R142). -/
def pageEnd (s : State) : State :=
  match s.captureUnit.page with
  | none => s
  | some p =>
    if s.captureUnit.phase ≠ .receiving then s
    else if p.lines = 0 then formatFault s
    else handOffRest finishPage s

/-- SCAN_ABORT: a page in capture is dropped (R149). -/
def scanAbort (s : State) : State := if pageInCapture s then dropAndStop false .scannerAbort s else s

/-! ### The data lane and the ready indication (R130, R145) -/

/-- The ready indication: off while both band stores are handed off, but on in UNBOUND and WAITING (R130, R145). -/
def CaptureUnit.readyIndication (u : CaptureUnit) : Bool :=
  u.filling.isSome || u.phase == .unbound || u.phase == .waiting

/-- A message of the data lane is taken at the port (R130). -/
def takeMessage : LaneMessage → State → State
  | .line pixels => line pixels
  | .pageBegin => pageBegin
  | .pageEnd => pageEnd
  | .scanAbort => scanAbort

/-- The scanner sends this message now: a line only while the ready indication is on (R130, R145). -/
def mayTake (m : LaneMessage) (u : CaptureUnit) : Bool :=
  match m with
  | .line _ => u.readyIndication
  | _ => true

/-- The scanner sends messages in their order, and from the first line that finds the ready indication off on holds
them back (R145, log 29). -/
def deliver : List LaneMessage → State → State
  | [], s => { s with captureUnit := { s.captureUnit with heldBack := [] } }
  | m :: rest, s =>
    if mayTake m s.captureUnit then deliver rest (takeMessage m s)
    else { s with captureUnit := { s.captureUnit with heldBack := m :: rest } }

/-- A message comes up at the scanner: it follows what is held back, if anything is (R130, R145, log 29). -/
def arrive (m : LaneMessage) (s : State) : State :=
  if s.captureUnit.heldBack = [] ∧ mayTake m s.captureUnit then takeMessage m s
  else deliver (s.captureUnit.heldBack ++ [m]) s

/-- What is held back is sent, as far as the ready indication lets it (R145, log 29). -/
def sendHeld (s : State) : State := if s.captureUnit.heldBack = [] then s else deliver s.captureUnit.heldBack s

/-- PAGE_BEGIN. -/
def execPageBegin (s : State) : Host.Outcome State Fault Refusal := .next (whenUp (arrive .pageBegin) s)

/-- LINE: with the ready indication off the scanner holds it (R145). -/
def execLine (pixels : List Byte) (s : State) : Host.Outcome State Fault Refusal :=
  .next (whenUp (arrive (.line pixels)) s)

/-- PAGE_END. -/
def execPageEnd (s : State) : Host.Outcome State Fault Refusal := .next (whenUp (arrive .pageEnd) s)

/-- SCAN_ABORT. -/
def execScanAbort (s : State) : Host.Outcome State Fault Refusal := .next (whenUp (arrive .scanAbort) s)

/-! ### BAND_WRITE_END (R147) -/

/-- The band's ciphertext and tag are written, and its store is freed (R145, R147). -/
def writeBand (slot : Nat) (h : HandedOff) (rest : List HandedOff) (d : Descriptor) (s : State) : State :=
  let key := (keySlot s slot).key
  let cipher := bandCrypt key slot d h.bytes
  let tagged := { d with tag := some (bandTag key slot d cipher) }
  let u := s.captureUnit
  { s with
    imageMemory := { s.imageMemory with cells := Memory.writeBytes s.imageMemory.cells d.address cipher }
    captureUnit :=
      { u with
        descriptors := Table.put u.descriptors h.descriptor tagged
        handedOff := rest
        filling := some (u.filling.getD .blank) } }

/-- The write of the oldest handed-off band ends (R147). -/
def bandWriteEnd (s : State) : State :=
  match s.captureUnit.handedOff, s.captureUnit.boundSlot with
  | h :: rest, some slot =>
    match descriptor s h.descriptor with
    | none => s
    | some d => completeIfWritten (writeBand slot h rest d s)
  | _, _ => s

/-- BAND_WRITE_END: a store is free, and the scanner sends what it held (R145, R147). -/
def execBandWriteEnd (s : State) : Host.Outcome State Fault Refusal :=
  .next (whenUp (fun s => sendHeld (bandWriteEnd s)) s)

/-! ### READ_CAPTURE (R151) -/

/-- The response body of READ_CAPTURE (R151, log 19). -/
def captureBody (u : CaptureUnit) (h : Health) : List Byte :=
  [byteOf u.phase.code] ++ optional 1 (fun n => [byteOf n]) u.boundTag ++
  optional 1 (fun n => [byteOf n]) u.boundSlot ++
  optional 3 (fun f => le 2 f.pixels ++ [byteOf f.bytesPerPixel]) u.format ++
  optional 4 (fun p => [byteOf p.number] ++ le 2 p.lines ++ [byteOf p.bands]) u.page ++
  [byteOf u.handedOff.length] ++ le 2 (Config.extentCount - u.extents.length) ++
  le 2 (longestRun 0 u.extents) ++ le 2 (Config.descriptorCount - u.descriptors.length) ++
  [byteOf h.code] ++ le 2 u.discarded

/-- READ_CAPTURE at the capture unit, taken in STANDBY too (R151). -/
def readCapture (clear : Bool) (s : State) : Answered :=
  let u := s.captureUnit
  ok (captureBody u s.randomSource.health) (if clear then { s with captureUnit := { u with discarded := 0 } } else s)

/-- The field of READ_CAPTURE (R151). -/
def readCaptureHandler : Handler := fun body s =>
  let clear := u8 body 0
  if yesNo clear then some (readCapture (clear == 1) s) else none

/-- READ_CAPTURE. -/
def execReadCapture (r : Request) (s : State) : Host.Outcome State Fault Refusal :=
  .next (command 56 4 readCaptureHandler r s)

end Sys2Proof.Machine
end

