-- ==== Sys2Proof/Machine/Hold.lean ====
section
/-! DEFINITION. The commands and events of the hold unit: release, the stream port, expiry, erasure and reading
(R155 to R178, R187, R188). -/
namespace Sys2Proof.Machine

/-! ### RELEASE_SCAN (R163) -/

/-- Checks 1 to 5 of R163, in their order. -/
def releaseRefusal (n : Nat) (s : State) : Option Response :=
  let x := keySlot s n
  let owner := account s (x.owner.getD 0)
  if x.state ≠ .held then some .badState
  else if x.damaged then some .damaged
  else if faulted s then some .faulted
  else if owner.state.refusal.isSome then owner.state.refusal
  else if (releasingSlot s).isSome then some .busy
  else none

/-- The release begins at band position 0 (R163). -/
def startRelease (n : Nat) (s : State) : State :=
  let x := keySlot s n
  let s1 := putSlot n { x with state := .releasing, release := some ⟨0, 0, x.totalBytes⟩ } s
  { s1 with holdUnit := { s1.holdUnit with streamer := .reading } }

/-- The response body of RELEASE_SCAN (R163). -/
def releaseBody (n : Nat) (x : KeySlot) : List Byte := [byteOf n] ++ le 2 x.bands.length ++ le 4 x.totalBytes

/-- RELEASE_SCAN at the hold unit (R163). -/
def releaseScan (n : Nat) (credential : List Byte) (s : State) : Answered :=
  inRun s <|
    match releaseRefusal n s with
    | some why => refuse why s
    | none =>
      let x := keySlot s n
      match checkCredential (x.owner.getD 0) credential s with
      | (.noCredential, t) => refuse .noCredential t
      | (.mismatch, t) => refuse .credentialMismatch t
      | (.isMatch, t) => accept (releaseBody n x) (startRelease n t)

/-- The fields of RELEASE_SCAN (R163). -/
def releaseScanHandler : Handler := fun body s =>
  let n := u8 body 0
  let length := u8 body 1
  if n < Config.slotCount ∧ credentialLength length then some (releaseScan n ((body.drop 2).take length) s) else none

/-- RELEASE_SCAN. -/
def execReleaseScan (r : Request) (s : State) : Host.Outcome State Fault Refusal :=
  .next (command 64 36 releaseScanHandler r s)

/-! ### The release streamer (R164 to R168) -/

/-- A band fails: the release ends with the slot HELD and damaged, and a fault is taken (R168). -/
def bandFails (n position : Nat) (kind : FaultKind) (s : State) : State :=
  let number := (account s ((keySlot s n).owner.getD 0)).number
  let fault : FaultRecord :=
    { kind := kind, minute := s.holdUnit.minute, account := number, slot := some n, band := some position }
  raise .releaseEnded (captureFault fault (returnToHeld n true (stopStreamer s)))

/-- The bytes a read returned: those stored, but for the ones that changed (log 9). -/
def withChanges (stored : List Byte) (changed : List (Nat × Byte)) : List Byte :=
  changed.foldl (fun l c => l.set c.1 c.2) stored

/-- The ciphertext of a band as image memory holds it (R144, R164). -/
def storedBand (d : Descriptor) (s : State) : List Byte := Memory.readBytes s.imageMemory.cells d.address d.length

/-- The data a read returned is decrypted and its tag compared (R164). -/
def checkBand (n position : Nat) (d : Descriptor) (cipher : List Byte) (s : State) : State :=
  let key := (keySlot s n).key
  if d.tag = some (bandTag key n d cipher) then
    { s with holdUnit := { s.holdUnit with streamer := .moving, bandBuffer := bandCrypt key n d cipher } }
  else bandFails n position .bandIntegrity s

/-- The read of the band at the release pointer ends (R164, R168). -/
def bandReadEnd (outcome : BandRead) (s : State) : State :=
  if s.holdUnit.streamer ≠ .reading then s
  else match releasingSlot s with
    | none => s
    | some n =>
      let x := keySlot s n
      let position := (x.release.map (·.position)).getD 0
      match (x.bands[position]?).bind (descriptor s) with
      | none => s
      | some d =>
        match outcome with
        | .uncorrectable => bandFails n position .imageMemoryError s
        | .returned changed => checkBand n position d (withChanges (storedBand d s) changed) s

/-- BAND_READ_END. -/
def execBandReadEnd (outcome : BandRead) (s : State) : Host.Outcome State Fault Refusal :=
  .next (whenUp (bandReadEnd outcome) s)

/-- The bytes that one move takes: no more than asked, than the FIFO has space for, than the band has left
(R165, log 24). -/
def moveCount (count : Nat) (offset : Nat) (u : HoldUnit) : Nat :=
  min count (min (Config.fifoBytes - u.fifo.length) (u.bandBuffer.length - offset))

/-- The streamer moves `m` bytes from the buffer to the FIFO, and on to the next band at the band's end (R165). -/
def moveBytes (n m : Nat) (r : Release) (s : State) : State :=
  let u := s.holdUnit
  let x := keySlot s n
  let fifo := u.fifo ++ (u.bandBuffer.drop r.offset).take m
  if u.bandBuffer.length ≤ r.offset + m then
    let next := r.position + 1
    let s1 := putSlot n { x with release := some ⟨next, 0, r.remaining - m⟩ } s
    { s1 with holdUnit :=
      { s1.holdUnit with fifo := fifo, bandBuffer := []
                         streamer := if next < x.bands.length then .reading else .draining } }
  else
    let s1 := putSlot n { x with release := some ⟨r.position, r.offset + m, r.remaining - m⟩ } s
    { s1 with holdUnit := { s1.holdUnit with fifo := fifo } }

/-- The streamer in MOVING moves at most so many bytes (R165, log 24). -/
def streamMove (count : Nat) (s : State) : State :=
  if s.holdUnit.streamer ≠ .moving then s
  else match releasingSlot s with
    | none => s
    | some n =>
      match (keySlot s n).release with
      | none => s
      | some r => moveBytes n (moveCount count r.offset s.holdUnit) r s

/-- STREAM_MOVE. -/
def execStreamMove (count : Nat) (s : State) : Host.Outcome State Fault Refusal := .next (whenUp (streamMove count) s)

/-! ### The stream port (R166, R167, R188) -/

/-- The word a read of the stream port returns: the bytes taken, the first in bits 7 to 0; positions not filled
read as zero (R188, R213). -/
def streamWordOf (taken : List Byte) : Word := BitVec.ofNat 32 (ofLe taken)

/-- The release completes: the slot is erased as released (R167). -/
def completeRelease (s : State) : State :=
  match releasingSlot s with
  | none => s
  | some n => raise .releaseDone (eraseHeld n s)

/-- A read of the stream port (R188). -/
def streamPortRead (s : State) : State :=
  let taken := s.holdUnit.fifo.take 4
  let rest := s.holdUnit.fifo.drop 4
  let s1 := { s with
    holdUnit := { s.holdUnit with fifo := rest }
    controlPort := { s.controlPort with streamWord := streamWordOf taken } }
  if taken ≠ [] ∧ rest = [] ∧ s.holdUnit.streamer = .draining then completeRelease s1 else s1

/-- An aligned 4-byte read of the stream port; while a reset is in progress the window's reads return zeros (R179,
R188). -/
def readStreamPort (s : State) : State :=
  if down s then { s with controlPort := { s.controlPort with streamWord := 0 } } else streamPortRead s

/-- STREAM_PORT_READ. -/
def execStreamPortRead (s : State) : Host.Outcome State Fault Refusal := .next (readStreamPort s)

/-! ### CANCEL_RELEASE and DELETE_SCAN (R170, R173) -/

/-- A command whose first field is a slot (R162). -/
def slotHandler (f : Nat → State → Answered) : Handler := fun body s =>
  let n := u8 body 0
  if n < Config.slotCount then some (f n s) else none

/-- CANCEL_RELEASE at the hold unit (R170). -/
def cancelRelease (n : Nat) (s : State) : Answered :=
  inRun s <|
    if (keySlot s n).state ≠ .releasing then refuse .badState s
    else
      let t := endRelease n s
      ok [byteOf (keySlot t n).state.code] t

/-- CANCEL_RELEASE. -/
def execCancelRelease (r : Request) (s : State) : Host.Outcome State Fault Refusal :=
  .next (command 65 4 (slotHandler cancelRelease) r s)

/-- DELETE_SCAN at the hold unit, taken in STANDBY too (R173). -/
def deleteScan (n : Nat) (s : State) : Answered :=
  match (keySlot s n).state with
  | .held => ok [] (eraseHeld n s)
  | .releasing => ok [] (raise .releaseEnded (eraseHeld n s))
  | _ => refuse .badState s

/-- DELETE_SCAN. -/
def execDeleteScan (r : Request) (s : State) : Host.Outcome State Fault Refusal :=
  .next (command 66 4 (slotHandler deleteScan) r s)

/-! ### LIST_HELD and READ_SCAN (R174, R175) -/

/-- The account's slots on the hold list, in its order (R174). -/
def heldOf (i : Nat) (s : State) : List Nat := s.holdUnit.holdList.filter fun n => (keySlot s n).owner == some i

/-- LIST_HELD at the hold unit, taken in STANDBY too (R174). That one byte is both R174's count and the count that R215
gives a list is the model's choice (DESIGN CHOICE, log 19). -/
def listHeld (number : Nat) (s : State) : Answered :=
  withAccount number s fun i _ => ok (listed Config.slotCount 1 (fun n => [byteOf n]) (heldOf i s)) s

/-- LIST_HELD. -/
def execListHeld (r : Request) (s : State) : Host.Outcome State Fault Refusal :=
  .next (command 67 4 (numberHandler listHeld) r s)

/-- The response body of READ_SCAN in mode SUMMARY (11, the scan record). -/
def summaryBody (x : KeySlot) (number : Option Nat) (phase : StreamerPhase) : List Byte :=
  [byteOf x.state.code] ++ optional 2 (le 2) number ++ optional 1 (fun t => [byteOf t]) x.jobTag ++
  [byteOf x.pages] ++ le 2 x.bands.length ++ le 4 x.totalBytes ++
  optional 8 (fun t => le 4 t.held ++ le 4 t.expiry) x.times ++ flag x.damaged ++ flag x.expiryDue ++
  optional 10 (fun r => le 2 r.position ++ le 3 r.offset ++ le 4 r.remaining ++ [byteOf phase.code]) x.release

/-- The response body of READ_SCAN in mode BAND (11, the scan record). -/
def bandBody (d : Descriptor) : List Byte :=
  [byteOf d.page, byteOf d.band, byteOf d.lines] ++ le 3 d.length ++ le 2 d.firstExtent ++
  [byteOf d.extentCount] ++ flag d.tag.isSome

/-- The two modes of READ_SCAN (R175). -/
inductive ScanMode where
  | summary | band
  deriving DecidableEq, Repr

/-- READ_SCAN at the hold unit, taken in STANDBY too (R175). -/
def readScan (n : Nat) (mode : ScanMode) (position : Nat) (s : State) : Answered :=
  let x := keySlot s n
  match mode with
  | .summary => ok (summaryBody x (x.owner.bind fun i => (account s i).number) s.holdUnit.streamer) s
  | .band =>
    match (x.bands[position]?).bind (descriptor s) with
    | none => refuse .noEntry s
    | some d => ok (bandBody d) s

/-- The fields of READ_SCAN (R175). -/
def readScanHandler : Handler := fun body s =>
  let n := u8 body 0
  let position := u16 body 2
  if n < Config.slotCount ∧ position < Config.descriptorCount then
    match u8 body 1 with
    | 0 => some (readScan n .summary position s)
    | 1 => some (readScan n .band position s)
    | _ => none
  else none

/-- READ_SCAN. -/
def execReadScan (r : Request) (s : State) : Host.Outcome State Fault Refusal :=
  .next (command 68 4 readScanHandler r s)

/-! ### The minute counter and the expiry walk (R158, R160) -/

/-- The counter rises by 1, stopping at its maximum (R158). -/
def raiseMinute (s : State) : State :=
  { s with holdUnit := { s.holdUnit with minute := satAdd Config.maxMinute s.holdUnit.minute 1 } }

/-- A tick in a warm reset has no walk of its own: one is due when the reset ends (R158). -/
def owesWalk (s : State) : State := { s with holdUnit := { s.holdUnit with walkDue := true } }

/-- MINUTE_TICK: the counter rises and the walk is made against it, in one event. Through a warm reset the counter
runs on and the walk waits for the reset's end; while the retained supply is lost, and in a cold start, the
counter does not run (R158, R204, log 14). -/
def execMinuteTick (s : State) : Host.Outcome State Fault Refusal :=
  .next <|
    if s.retentionUnit.supply = .lost ∨ s.retentionUnit.reset = .cold then s
    else if down s then owesWalk (raiseMinute s)
    else expiryWalk true (raiseMinute s)

/-- EXPIRY_WALK: a walk that is still due. MINUTE_TICK makes its own, and the end of a warm reset the one of the ticks
that fell in it, so this finds nothing to do after them (R158, R160, log 14). -/
def execExpiryWalk (s : State) : Host.Outcome State Fault Refusal :=
  .next (whenUp (fun s => if s.holdUnit.walkDue then expiryWalk true s else s) s)

end Sys2Proof.Machine
end

