-- ==== Sys2Proof/Machine/Notices.lean ====
section
/-! DEFINITION. The commands of the notice unit (R195 to R201). -/
namespace Sys2Proof.Machine

/-- The response body of READ_NOTICES (R195, log 19). -/
def noticesBody (u : NoticeUnit) : List Byte :=
  packNotices u.pending ++ packNotices u.enabled ++
  flag (u.groupSummary .account) ++ flag (u.groupSummary .job) ++ flag (u.groupSummary .sheet) ++
  flag (u.groupSummary .station) ++ flag (u.groupSummary .scan) ++ flag u.overall ++
  flag u.fault.isSome ++ flag u.more

/-- READ_NOTICES at the notice unit (R195). -/
def readNotices (s : State) : Answered := ok (noticesBody s.noticeUnit) s

/-- READ_NOTICES. -/
def execReadNotices (r : Request) (s : State) : Host.Outcome State Fault Refusal :=
  .next (command 72 0 (fun _ s => some (readNotices s)) r s)

/-- A command whose body is one notice set for each group; a position that holds no notice is out of range
(09, 9.2). -/
def noticesHandler (f : PerGroup → State → Answered) : Handler := fun body s =>
  let named := noticesOf body
  if named.legal then some (f named s) else none

/-- CLEAR_NOTICES at the notice unit (R196). -/
def clearNotices (named : PerGroup) (s : State) : Answered :=
  let u := s.noticeUnit
  ok (packNotices (PerGroup.map2 (· &&& ·) u.pending named))
    { s with noticeUnit := u.withSets (PerGroup.map2 (fun p n => p &&& ~~~n) u.pending named) u.enabled }

/-- CLEAR_NOTICES. -/
def execClearNotices (r : Request) (s : State) : Host.Outcome State Fault Refusal :=
  .next (command 73 20 (noticesHandler clearNotices) r s)

/-- SET_NOTICE_ENABLE at the notice unit (R197). -/
def setNoticeEnable (named : PerGroup) (s : State) : Answered :=
  ok [] { s with noticeUnit := s.noticeUnit.withSets s.noticeUnit.pending named }

/-- SET_NOTICE_ENABLE. -/
def execSetNoticeEnable (r : Request) (s : State) : Host.Outcome State Fault Refusal :=
  .next (command 74 20 (noticesHandler setNoticeEnable) r s)

/-- The response body of READ_FAULT and CLEAR_FAULT (R198, R201, log 19). -/
def faultBody (u : NoticeUnit) : List Byte :=
  flag u.fault.isSome ++ flag u.more ++
  optional 1 (fun f => [byteOf f.kind.code]) u.fault ++
  optional 4 (fun f => le 4 f.minute) u.fault ++
  optional 2 (le 2) (u.fault.bind (·.account)) ++
  optional 1 (fun n => [byteOf n]) (u.fault.bind (·.slot)) ++
  optional 2 (le 2) (u.fault.bind (·.band))

/-- READ_FAULT at the notice unit (R201). -/
def readFault (s : State) : Answered := ok (faultBody s.noticeUnit) s

/-- READ_FAULT. -/
def execReadFault (r : Request) (s : State) : Host.Outcome State Fault Refusal :=
  .next (command 76 0 (fun _ s => some (readFault s)) r s)

/-- CLEAR_FAULT at the notice unit (R201). -/
def clearFault (s : State) : Answered :=
  ok (faultBody s.noticeUnit) { s with noticeUnit := { s.noticeUnit with fault := none, more := false } }

/-- CLEAR_FAULT. -/
def execClearFault (r : Request) (s : State) : Host.Outcome State Fault Refusal :=
  .next (command 77 0 (fun _ s => some (clearFault s)) r s)

end Sys2Proof.Machine
end

