-- ==== Sys2Proof/Machine/Retention.lean ====
section
/-! DEFINITION. The retention unit: the preserve walk (R206 to R210), the power states (R211, R212), and the
resets with their effect on every record (R29, R30, R53, R82, R108, R109, R132, R152, R153, R176, R177, R202 to
R205). -/
namespace Sys2Proof.Machine

/-! ### The NV image (R203) -/

/-- The imaged fields of an account entry (R207 step 1). -/
def Account.image (a : Account) : NvAccount :=
  { state := a.state, number := a.number, group := a.group, unlimited := a.unlimited
    available := a.balance.add a.held, lifetime := a.lifetime, countSaturated := a.countSaturated
    creditClipped := a.creditClipped, digest := a.digest }

/-- Replace the walk. -/
def setWalk (w : Option Walk) (s : State) : State := { s with retentionUnit := { s.retentionUnit with walk := w } }

/-- The values a write takes at its start (R207 step 1). -/
def valuesAt (p : WalkPosition) (s : State) : NvValues :=
  match p with
  | .groups => .groups s.accountUnit.groups
  | .account i => .account (account s i).image

/-- The walk with the write at its position in progress: started now, unless it already is (R207 step 1, log 3). -/
def Walk.started (w : Walk) (s : State) : Walk :=
  if w.writing.isSome then w else { w with writing := some (valuesAt w.position s), stale := false }

/-- What the part does with nothing waiting: a walk between two writes starts its next one (R207, log 3), and the
scanner sends what it held back and now may send (R145, log 29). -/
def idle (s : State) : State :=
  if down s then s else sendHeld (setWalk (s.retentionUnit.walk.map (·.started s)) s)

/-- The NV image entry at a position takes values, and its written mark becomes yes (R207 step 3). -/
def writeImage (p : WalkPosition) (values : NvValues) (s : State) : State :=
  let u := s.retentionUnit
  match p, values with
  | .groups, .groups t => { s with retentionUnit := { u with nvGroups := some t } }
  | .account i, .account v => { s with retentionUnit := { u with nvAccounts := Table.put u.nvAccounts i v } }
  | _, _ => s

/-- Set the preserved flag of the entry at a position. -/
def setPreserved (p : WalkPosition) (preserved : Bool) (s : State) : State :=
  match p with
  | .groups => { s with accountUnit := { s.accountUnit with groupsPreserved := preserved } }
  | .account i => putAccount i { account s i with preserved := preserved } s

/-- The position after one, absent after index 511 (R207). -/
def WalkPosition.next : WalkPosition → Option WalkPosition
  | .groups => some (.account 0)
  | .account i => if i + 1 < Config.accountCount then some (.account (i + 1)) else none

/-- The write of a started walk completes (R207 step 3, R208). -/
def writeCompletes (w : Walk) (values : NvValues) (s : State) : State :=
  let s1 := writeImage w.position values s
  let s2 := if w.stale then s1 else setPreserved w.position true s1
  let dirty := w.dirty || w.stale
  match w.position.next with
  | some p => setWalk (some { w with position := p, writing := none, dirty := dirty }) s2
  | none => raiseIf dirty .preserveDirty (raise .preserveDone (setWalk none s2))

/-- The account number that a failed write's fault carries (R209). -/
def failedNumber (p : WalkPosition) (s : State) : Option Nat :=
  match p with
  | .groups => none
  | .account i => (account s i).number

/-- The write at the position of a walk fails (R209). -/
def writeFails (w : Walk) (s : State) : State :=
  let fault : FaultRecord :=
    { kind := .nvWriteFailed, minute := s.holdUnit.minute, account := failedNumber w.position s
      slot := none, band := none }
  captureFault fault (setWalk none (setPreserved w.position false s))

/-- The write at the walk's position ends (R207, R209). -/
def nvWriteEnd (completes : Bool) (s : State) : State :=
  match s.retentionUnit.walk with
  | none => s
  | some w0 =>
    let w := w0.started s
    match w.writing with
    | none => s
    | some values => if completes then writeCompletes w values s else writeFails w s

/-- NV_WRITE_END. -/
def execNvWriteEnd (completes : Bool) (s : State) : Host.Outcome State Fault Refusal :=
  .next (whenUp (nvWriteEnd completes) s)

/-- PRESERVE_ACCOUNTS at the retention unit (R206). -/
def preserveAccounts (s : State) : Answered :=
  inRun s <|
    if s.retentionUnit.walk.isSome then refuse .busy s
    else accept [] (setWalk (some { position := .groups, writing := none, stale := false, dirty := false }) s)

/-- PRESERVE_ACCOUNTS. -/
def execPreserveAccounts (r : Request) (s : State) : Host.Outcome State Fault Refusal :=
  .next (command 80 0 (fun _ s => some (preserveAccounts s)) r s)

/-! ### Power states (R211, R212) -/

/-- Work in progress that keeps the part in RUN (R211). -/
def workInProgress (s : State) : Bool :=
  s.jobUnit.jobs.any (fun e => e.2.state == .active || e.2.state == .closing) ||
  !s.sheetLink.sheets.isEmpty ||
  s.holdUnit.slots.any (fun e => e.2.state == .capturing || e.2.state == .releasing) ||
  s.stationUnit.stations.any (fun x => x.inFlight.isSome || !x.queue.isEmpty) ||
  s.retentionUnit.walk.isSome

/-- Set the power state and image memory's self-refresh with it (R211, R212). -/
def setPower (p : PowerState) (s : State) : State :=
  { s with
    retentionUnit := { s.retentionUnit with power := p }
    imageMemory := { s.imageMemory with selfRefresh := p == .standby } }

/-- ENTER_STANDBY at the retention unit (R211). -/
def enterStandby (s : State) : Answered :=
  inRun s (if workInProgress s then refuse .busy s else ok [] (setPower .standby s))

/-- ENTER_STANDBY. -/
def execEnterStandby (r : Request) (s : State) : Host.Outcome State Fault Refusal :=
  .next (command 84 0 (fun _ s => some (enterStandby s)) r s)

/-- Every station takes what its line is sensed to be (R109, R110). -/
def senseStations (noted : Bool) (s : State) : State := Station.list.foldl (senseStation noted) s

/-- EXIT_STANDBY at the retention unit (R212). -/
def exitStandby (s : State) : Answered :=
  if standby s then ok [] (senseStations true (setPower .run s)) else refuse .badState s

/-- EXIT_STANDBY. -/
def execExitStandby (r : Request) (s : State) : Host.Outcome State Fault Refusal :=
  .next (command 85 0 (fun _ s => some (exitStandby s)) r s)

/-! ### Loss of the retained supply, and cold start (R203, R204) -/

/-- A walk is abandoned. A write in progress leaves its entry with its old or its new contents: a free value
says which (R203, R210, log 10). `marks` says whether the entry's preserved flag becomes no. -/
def abandonWalk (marks : Bool) (s : State) : State :=
  match s.retentionUnit.walk with
  | none => s
  | some w =>
    match w.writing with
    | none => setWalk none s
    | some values =>
      let s1 := { s with freeCount := s.freeCount + 1 }
      let s2 := if Config.cutOffWriteLands s.freeCount then writeImage w.position values s1 else s1
      setWalk none (if marks then setPreserved w.position false s2 else s2)

/-- RETAINED_SUPPLY_LOST: the supply state becomes LOST, and a warm reset in progress is abandoned (R204, R205). -/
def execRetainedSupplyLost (s : State) : Host.Outcome State Fault Refusal :=
  .next <|
    if s.retentionUnit.supply = .lost then s
    else
      let s1 := abandonWalk false s
      { s1 with retentionUnit := { s1.retentionUnit with supply := .lost, reset := .none } }

/-- An account entry as a cold start loads it from a stored ACTIVE or SUSPENDED one (R29). -/
def NvAccount.load (v : NvAccount) : Account :=
  let exceeds := v.available.passes Config.maxAmount
  { state := v.state, number := v.number, group := v.group, unlimited := v.unlimited
    balance := v.available.clip Config.maxAmount, held := .zero, lifetime := v.lifetime
    countSaturated := v.countSaturated, creditClipped := v.creditClipped || exceeds, digest := v.digest
    failed := 0, openJobs := 0, heldScans := 0, preserved := !exceeds }

/-- The account table a cold start loads: written entries by R29; an entry RETIRING, and one whose number a lower
index holds in ACTIVE or SUSPENDED, as FREE with preserved no (R29, R204). -/
def loadAccounts : (seen : List Nat) → Table NvAccount → Table Account
  | _, [] => []
  | seen, (i, v) :: rest =>
    match v.state with
    | .free => loadAccounts seen rest
    | .retiring => (i, .free false) :: loadAccounts seen rest
    | _ =>
      let n := v.number.getD 0
      if seen.contains n then (i, .free false) :: loadAccounts seen rest
      else (i, v.load) :: loadAccounts (n :: seen) rest

/-- The part as a cold start begins it: every record at its cold-start value, the tables loaded, the health test
still to end (R204). -/
def coldState (s : State) : State :=
  { State.reset with
    accountUnit :=
      { accounts := loadAccounts [] s.retentionUnit.nvAccounts, groups := s.retentionUnit.nvGroups.getD []
        groupsPreserved := true }
    randomSource := { State.reset.randomSource with returned := s.randomSource.returned }
    noticeUnit := { State.reset.noticeUnit with interrupts := s.noticeUnit.interrupts }
    retentionUnit :=
      { State.reset.retentionUnit with
        nvAccounts := s.retentionUnit.nvAccounts, nvGroups := s.retentionUnit.nvGroups, reset := .cold }
    lines := s.lines
    freeCount := s.freeCount
    pending := s.pending }

/-- COLD_START: the retained supply returns (R204). -/
def execColdStart (s : State) : Host.Outcome State Fault Refusal :=
  .next (if s.retentionUnit.supply = .lost then coldState s else s)

/-! ### Warm reset (R205) -/

/-- An account after a warm reset: held returned under the clipping of R6, open jobs 0, a RETIRING entry FREE
(R30). -/
def Account.warm (a : Account) : Account :=
  if a.state = .retiring then .retired
  else
    let b := { a.giveBack a.held with openJobs := 0 }
    { b with preserved := a.preserved && sameForImage a b }

/-- A station whose exchanges are cancelled (R95, R109). -/
def StationRecord.quiet (x : StationRecord) : StationRecord := { x with inFlight := none, queue := [] }

/-- The slot that is CAPTURING, if there is one. -/
def capturingSlot (s : State) : Option Nat :=
  (Table.search (fun x : KeySlot => x.state == .capturing) s.holdUnit.slots).map (·.1)

/-- The CAPTURING slot is erased, with no message and no claim (R137, R153). -/
def resetCapturing (s : State) : State :=
  match capturingSlot s with
  | none => s
  | some n => blankSlot n s

/-- The RELEASING slot is erased if overdue, else returns to HELD (R177). -/
def resetReleasing (s : State) : State :=
  match releasingSlot s with
  | none => s
  | some n =>
    if (keySlot s n).expiryDue ∨ expiryOf s n ≤ s.holdUnit.minute then eraseHeld n s
    else returnToHeld n (keySlot s n).damaged s

/-- The accounts and slots after a warm reset (R30, R153, R177). -/
def resetCustody (s : State) : State :=
  let s1 := resetReleasing (stopStreamer (resetCapturing s))
  { s1 with accountUnit := { s1.accountUnit with accounts := Table.mapValues .blank Account.warm s1.accountUnit.accounts } }

/-- The records outside the retained domain, and what a warm reset clears within it (R53, R57, R82, R109, R123,
R153, R179, R202). -/
def resetWork (s : State) : State :=
  let stations := PerStation.map2 (fun x (_ : Unit) => x.quiet) s.stationUnit.stations (.all ())
  { unbindPort s with
    controlPort := .afterReset
    jobUnit := .afterReset
    sheetLink := .afterReset
    stationUnit := { stations := stations, rotation := { s.stationUnit.rotation with pointer := 0, counter := 0 } }
    captureUnit := { (unbindPort s).captureUnit with discarded := 0, status := [], heldBack := [] }
    randomSource := { s.randomSource with draws := [] }
    noticeUnit := { State.reset.noticeUnit with interrupts := s.noticeUnit.interrupts }
    imageMemory := { s.imageMemory with selfRefresh := true } }

/-- The causes that hold, and the last to arise, after a cause arises (R205). -/
def ResetProgress.arise (p : ResetProgress) (cause : ResetCause) : ResetProgress :=
  match p, cause with
  | .warm _ dip _, .pin => .warm true dip .pin
  | .warm pin _ _, .supplyDip => .warm pin true .supplyDip
  | _, .pin => .warm true false .pin
  | _, .supplyDip => .warm false true .supplyDip

/-- A warm reset is in progress. -/
def ResetProgress.isWarm : ResetProgress → Bool
  | .warm _ _ _ => true
  | _ => false

/-- WARM_RESET: a cause arises while the retained supply holds. It begins a warm reset, or extends the one in
progress (R205, log 23). -/
def execWarmReset (cause : ResetCause) (s : State) : Host.Outcome State Fault Refusal :=
  .next <|
    if s.retentionUnit.supply = .lost then s
    else
      let p := s.retentionUnit.reset
      let s1 := if p.isWarm then s else resetWork (resetCustody (abandonWalk true s))
      { s1 with retentionUnit := { s1.retentionUnit with reset := p.arise cause } }

/-- The causes that still hold after one ends (R205). -/
def ResetProgress.endCause (p : ResetProgress) (cause : ResetCause) : ResetProgress :=
  match p, cause with
  | .warm _ dip last, .pin => .warm false dip last
  | .warm pin _ last, .supplyDip => .warm pin false last
  | p, _ => p

/-- RESET_CAUSE_ENDS: with no cause left the health test runs (R132, R205). -/
def execResetCauseEnds (cause : ResetCause) (s : State) : Host.Outcome State Fault Refusal :=
  .next { s with retentionUnit := { s.retentionUnit with reset := s.retentionUnit.reset.endCause cause } }

/-! ### The end of a reset (R132) -/

/-- The last reset kind that a reset in its health test ends with; absent where no test runs (R204, R205). -/
def ResetProgress.ends : ResetProgress → Option ResetKind
  | .cold => some .cold
  | .warm false false .pin => some .pin
  | .warm false false .supplyDip => some .supplyDip
  | _ => Option.none

/-- The reset ends: RUN, with the last reset kind (R204, R205). -/
def endReset (kind : ResetKind) (s : State) : State :=
  let s1 := setPower .run s
  { s1 with retentionUnit := { s1.retentionUnit with lastReset := kind, reset := .none } }

/-- What a warm reset senses and walks at its end: the stations, and the walk for ticks that fell in it, with no
notice (R109, R158, R177, R202). A cold start does neither: its lines are reported afterwards (R108). -/
def afterWarm (kind : ResetKind) (s : State) : State :=
  if kind = .cold then s
  else
    let s1 := senseStations false s
    if s1.holdUnit.walkDue then expiryWalk false s1 else s1

/-- HEALTH_TEST_END: the test ends the reset, and a failing one is captured (R132, R202). -/
def healthTestEnd (passes : Bool) (s : State) : State :=
  match s.retentionUnit.reset.ends with
  | none => s
  | some kind =>
    let s1 := { s with randomSource := { s.randomSource with health := if passes then .healthy else .unhealthy } }
    let s2 := endReset kind (afterWarm kind s1)
    if passes then s2
    else captureFault
      { kind := .keygenFailed, minute := s2.holdUnit.minute, account := none, slot := none, band := none } s2

/-- HEALTH_TEST_END. -/
def execHealthTestEnd (passes : Bool) (s : State) : Host.Outcome State Fault Refusal := .next (healthTestEnd passes s)

end Sys2Proof.Machine
end

