-- ==== Sys2Proof/Machine/SheetLink.lean ====
section
/-! DEFINITION. The events of the sheet link (R55 to R83), and the rotation's interval that its counter
completes (R124). -/
namespace Sys2Proof.Machine

/-! ### Sheets -/

/-- Sides of a class, times a number for each. -/
def sidesTimes (n : Nat) (class1 : SideClass) (class2 : Option SideClass) (c : SideClass) : Nat :=
  (if class1 = c then n else 0) + (if class2 = some c then n else 0)

/-- The class a code names in a FEED_ASK whose fields are in range (R216). -/
def sideClassOf (b : Byte) : SideClass := if b = 1 then .colour else .mono

/-- The class of side 2: present only when sides is 2 (R61). -/
def askSide2 (a : FeedAsk) : Option SideClass := if a.sides = 2 then some (sideClassOf a.class2) else none

/-- The sheet's need in a class (R59). -/
def askNeed (a : FeedAsk) (c : SideClass) : Nat :=
  sidesTimes a.size.toNat (sideClassOf a.class1) (askSide2 a) c

/-- The need as amounts: none in SCAN (R59). -/
def askNeeds (a : FeedAsk) : Amounts := ⟨askNeed a .mono, askNeed a .colour, 0⟩

/-- The table entry that a grant of an ask adds (R71). -/
def askEntry (a : FeedAsk) : Sheet :=
  { tag := a.tag.toNat, sides := a.sides.toNat, size := a.size.toNat, class1 := sideClassOf a.class1
    class2 := askSide2 a, mask := stationsOf a.mask, committedMono := askNeed a .mono
    committedColour := askNeed a .colour, seconds := 0 }

/-- A sheet's committed amounts. -/
def Sheet.amounts (e : Sheet) : Amounts := ⟨e.committedMono, e.committedColour, 0⟩

/-- A sheet's side counts: sides of each class, whatever the size factor (R59). -/
def Sheet.sideCounts (e : Sheet) : Amounts :=
  ⟨sidesTimes 1 e.class1 e.class2 .mono, sidesTimes 1 e.class1 e.class2 .colour, 0⟩

/-- The entry that holds a sheet number. -/
def sheetAt (s : State) (n : BitVec 16) : Option Sheet := Table.find s.sheetLink.sheets n.toNat

/-- Take an entry off the in-flight table. -/
def removeSheet (n : BitVec 16) (s : State) : State :=
  { s with sheetLink := { s.sheetLink with sheets := Table.drop s.sheetLink.sheets n.toNat } }

/-- Produce an answer on the link (R57). Its frame has been taken, so the receiver is IDLE (R55). -/
def sendAnswer (f : List Byte) (s : State) : State :=
  { s with sheetLink := { s.sheetLink with answers := s.sheetLink.answers ++ [f], receiver := .idle } }

/-- A bad frame: the notice, the count, and the receiver IDLE (R56). -/
def badFrame (s : State) : State :=
  let u := s.sheetLink
  raise .sheetLinkBad { s with sheetLink := { u with badFrames := satAdd 255 u.badFrames 1, receiver := .idle } }

/-! ### FEED_ASK (R61 to R71) -/

/-- Some station of a mask is in a state of a set. -/
def maskMeets (s : State) (mask : PerStation Bool) (p : StationState → Bool) : Bool :=
  (PerStation.map2 (fun m (x : StationRecord) => m && p x.state) mask s.stationUnit.stations).any id

/-- A station that is EMPTY, PROBING or CHALLENGING (R67, check 9). -/
def StationState.unproven : StationState → Bool
  | .empty | .probing | .challenging => true
  | _ => false

/-- An owner who may not spend: the stop reason that check 5 gives (R66). -/
def AccountState.stopReason : AccountState → Option StopReason
  | .suspended _ => some .accountSuspended
  | .retiring => some .accountRetiring
  | _ => none

/-- A side of the sheet is COLOUR (R70). -/
def askHasColour (a : FeedAsk) : Bool := decide (sideClassOf a.class1 = .colour) || decide (askSide2 a = some .colour)

/-- The sheet's need passes the job's remaining reservation in both classes (R69). -/
def needFits (a : FeedAsk) (j : Job) : Bool := (askNeeds a).le { j.remaining with scan := 0 }

/-- The feed decision: the first check of R62 that applies, and the job's entry where check 12 is reached. -/
def feedDecision (a : FeedAsk) (s : State) : Reply × FeedReason :=
  match sheetAt s a.sheet, jobOfTag s a.tag.toNat with
  | some e, _ => if e.tag = a.tag.toNat then (.feedOk, .none) else (.feedHalt, .clash)
  | none, none => (.feedHalt, .noJob)
  | none, some (_, j) =>
    let owner := account s (j.owner.getD 0)
    let mask := stationsOf a.mask
    if j.state = .settled ∨ j.state = .closing ∨ j.kind = .scan then (.feedHalt, .noJob)
    else if j.state = .stopped then (.feedHalt, .stopped)
    else if owner.state.stopReason.isSome then (.feedHalt, .account)
    else if maskMeets s mask StationState.lost then (.feedHalt, .station)
    else if standby s then (.feedWait, .standby)
    else if Config.sheetCount ≤ s.sheetLink.sheets.length then (.feedWait, .pathFull)
    else if maskMeets s mask StationState.unproven then (.feedWait, .stationBusy)
    else if needFits a j = false then (.feedLimit, .spent)
    else if askHasColour a ∧ (groupPolicy s owner.group).colourAllowed = false then (.feedHalt, .notAllowed)
    else (.feedOk, .none)

/-- The commit claim of a grant (R41). -/
def commitSheet (a : FeedAsk) (j : Job) : Job :=
  { j with
    committed := j.committed.add (askNeeds a)
    stationsUsed := PerStation.map2 (· || ·) j.stationsUsed (stationsOf a.mask)
    state := if j.state = .ready then .active else j.state }

/-- A grant: the entry is added and the commit claim applied (R71). -/
def grantSheet (a : FeedAsk) (s : State) : State :=
  let u := s.sheetLink
  let s1 := { s with sheetLink := { u with sheets := Table.put u.sheets a.sheet.toNat (askEntry a) } }
  match jobOfTag s a.tag.toNat with
  | none => s1
  | some (k, j) => putJob k (commitSheet a j) s1

/-- The stop request of check 5 (R66). -/
def haltForAccount (tag : Nat) (s : State) : State :=
  match jobOfTag s tag with
  | none => s
  | some (_, j) =>
    match (account s (j.owner.getD 0)).state.stopReason with
    | none => s
    | some why => stopTag tag why s

/-- A FEED_ASK whose fields are in range is decided and answered (R62). -/
def takeAsk (a : FeedAsk) (s : State) : State :=
  let again := (sheetAt s a.sheet).isSome
  let (reply, reason) := feedDecision a s
  let s1 :=
    match reply, reason with
    | .feedOk, _ => if again then s else grantSheet a s
    | _, .account => haltForAccount a.tag.toNat s
    | _, .spent => raise .jobLimit s
    | _, _ => s
  sendAnswer (feedReplyFrame a.sheet a.tag reply reason (decide (reply = .feedOk) && again)) s1

/-! ### Resolutions (R42, R73 to R78) -/

/-- How a sheet resolves. -/
inductive Resolution where
  | delivered | jammed | lapsed
  deriving DecidableEq, Repr

/-- The job's fields after a resolution claim (R42). -/
def Job.resolve (j : Job) (how : Resolution) (e : Sheet) : Job :=
  let freed := { j with committed := j.committed.sub e.amounts }
  let paid := { freed with charged := j.charged.add e.amounts }
  match how with
  | .delivered => { paid with delivered := satAdd Config.maxAmount j.delivered 1 }
  | .lapsed => { paid with lapsed := satAdd Config.maxAmount j.lapsed 1 }
  | .jammed => { freed with jammed := satAdd Config.maxAmount j.jammed 1 }

/-- The resolution claim of a sheet: the job's amounts, the charge request but for a jam, and the settlement of a
CLOSING job that has nothing committed left (R42). -/
def resolveClaim (how : Resolution) (e : Sheet) (s : State) : State :=
  match jobOfTag s e.tag with
  | none => s
  | some (k, j) =>
    let s1 := putJob k (j.resolve how e) s
    let s2 :=
      if how = .jammed then s1
      else updateAccount (j.owner.getD 0) (fun a => a.charge e.amounts e.sideCounts) s1
    settleIfDone k s2

/-- A stray report (R76). -/
def strayReport (r : SheetReport) (s : State) : State :=
  let u := s.sheetLink
  sendAnswer (reportAckFrame r.sheet r.tag true)
    (raise .strayReport { s with sheetLink := { u with strayReports := satAdd 255 u.strayReports 1 } })

/-- The entry a report resolves: its sheet number with its tag (R73). -/
def reported (r : SheetReport) (s : State) : Option Sheet :=
  (sheetAt s r.sheet).filter fun e => e.tag == r.tag.toNat

/-- A DELIVERED whose fields are in range (R75, R76). -/
def takeDelivered (r : SheetReport) (s : State) : State :=
  match reported r s with
  | none => strayReport r s
  | some e =>
    let s1 := removeSheet r.sheet (passDoses e.sides r (resolveClaim .delivered e s))
    sendAnswer (reportAckFrame r.sheet r.tag false) (countSheet s1)

/-- A JAMMED whose fields are in range (R76, R77). -/
def takeJammed (imaged : Byte) (r : SheetReport) (s : State) : State :=
  match reported r s with
  | none => strayReport r s
  | some e =>
    let s1 := resolveClaim .jammed e s
    let s2 := if imaged = 1 then passDoses e.sides r s1 else s1
    sendAnswer (reportAckFrame r.sheet r.tag false) (removeSheet r.sheet s2)

/-! ### Frames (R55, R56) -/

/-- The body of a gathered frame (R216). -/
def frameBody (bytes : List Byte) : List Byte := (bytes.drop 3).take (bytes.length - 5)

/-- A gathered frame is taken as one whole: discarded if it is bad, else handled as its kind says (R55, R56). -/
def takeFrame (bytes : List Byte) (s : State) : State :=
  let body := frameBody bytes
  if frameGood bytes = false then badFrame s
  else if bytes.getD 1 0 = 0x01 then takeAsk (feedAskOf body) s
  else if bytes.getD 1 0 = 0x02 then takeDelivered (reportOf body 3) s
  else takeJammed (body.getD 3 0) (reportOf body 4) s

/-- A byte arrives on the link; the frame it completes is taken before the next byte (R55). -/
def receiveByte (s : State) (b : Byte) : State :=
  let taken := s.sheetLink.receiver.take b
  let s1 := { s with sheetLink := { s.sheetLink with receiver := taken.1 } }
  match taken.2 with
  | none => s1
  | some bytes => takeFrame bytes s1

/-- Bytes arrive on the link, one after the other (R55). -/
def receive (bytes : List Byte) (s : State) : State := bytes.foldl receiveByte s

/-- FEED_ASK: the bytes of this frame arrive. In IDLE they end in its being taken, or discarded where a field is out of
its range; behind the first bytes of another frame they are gathered with those (R55, R56, R61, log 28). -/
def execFeedAsk (ask : FeedAsk) (s : State) : Host.Outcome State Fault Refusal :=
  .next (whenUp (receive (feedAskFrame ask)) s)

/-- DELIVERED: the bytes of this frame arrive, as those of FEED_ASK do (R55, R56, R73, log 28). -/
def execDelivered (report : SheetReport) (s : State) : Host.Outcome State Fault Refusal :=
  .next (whenUp (receive (deliveredFrame report)) s)

/-- JAMMED: the bytes of this frame arrive, as those of FEED_ASK do (R55, R56, R73, log 28). -/
def execJammed (imaged : Byte) (report : SheetReport) (s : State) : Host.Outcome State Fault Refusal :=
  .next (whenUp (receive (jammedFrame imaged report)) s)

/-- BAD_FRAME: these bytes arrive. The bytes of a frame that is bad end in its discarding (R56); any other bytes
do what the receiver makes of them (R55, log 28). -/
def execBadFrame (bytes : List Byte) (s : State) : Host.Outcome State Fault Refusal := .next (whenUp (receive bytes) s)

/-- More than 50 microseconds pass: what has been gathered of a frame is discarded as a bad frame (R56). -/
def gapTimeout (s : State) : State := if s.sheetLink.receiver = .idle then s else badFrame s

/-- FRAME_GAP_TIMEOUT: these bytes arrive, and the time passes (R56, log 28). -/
def execFrameGapTimeout (bytes : List Byte) (s : State) : Host.Outcome State Fault Refusal :=
  .next (whenUp (fun s => gapTimeout (receive bytes s)) s)

/-! ### Sheet timers (R60, R78) -/

/-- SHEET_LAPSE: the timer of a sheet has reached 30 seconds (R78, log 16). -/
def execSheetLapse (sheet : BitVec 16) (s : State) : Host.Outcome State Fault Refusal :=
  .next <| whenUp (fun s =>
    match sheetAt s sheet with
    | none => s
    | some e =>
      if e.seconds < Config.lapseSeconds then s
      else removeSheet sheet (raise .sheetLapsed (resolveClaim .lapsed e s))) s

/-- SHEET_TIMER_SECOND: a whole second since the grant of a sheet has passed (R60, log 16). -/
def execSheetTimerSecond (sheet : BitVec 16) (s : State) : Host.Outcome State Fault Refusal :=
  .next <| whenUp (fun s =>
    match sheetAt s sheet with
    | none => s
    | some e =>
      let e' := { e with seconds := satAdd Config.lapseSeconds e.seconds 1 }
      { s with sheetLink := { s.sheetLink with sheets := Table.put s.sheetLink.sheets sheet.toNat e' } }) s

/-! ### ROTATION_INTERVAL (R124) -/

/-- ROTATION_INTERVAL: a counter that has come to 2v takes its slot. DELIVERED does so itself, so this finds
nothing to do after it (log 15). -/
def execRotationInterval (s : State) : Host.Outcome State Fault Refusal :=
  .next (whenUp (fun s => if intervalComplete s then takeSlot s else s) s)

/-! ### READ_SHEETS (R81) -/

/-- One entry of READ_SHEETS's list, 16 bytes (R58, R81). That sides, size factor and seconds since grant take one
byte each is the model's choice: R215 names no width for them (log 19). -/
def sheetBytes (e : Nat × Sheet) : List Byte :=
  let (n, x) := e
  le 2 n ++ [byteOf x.tag, byteOf x.sides, byteOf x.size, byteOf x.class1.code] ++
  optional 1 (fun c => [byteOf c.code]) x.class2 ++ [byteOf (packStations x.mask)] ++
  le 3 x.committedMono ++ le 3 x.committedColour ++ [byteOf x.seconds]

/-- The response body of READ_SHEETS (R81). That one byte is both R81's number of entries and the count that R215
gives a list is the model's choice (log 19). -/
def sheetsBody (u : SheetLink) : List Byte :=
  listed Config.sheetCount 16 sheetBytes u.sheets ++ [byteOf u.badFrames, byteOf u.strayReports]

/-- READ_SHEETS at the sheet link, taken in STANDBY too (R81). -/
def readSheets (clear : Bool) (s : State) : Answered :=
  let u := s.sheetLink
  ok (sheetsBody u) (if clear then { s with sheetLink := { u with badFrames := 0, strayReports := 0 } } else s)

/-- The field of READ_SHEETS (R81). -/
def readSheetsHandler : Handler := fun body s =>
  let clear := u8 body 0
  if yesNo clear then some (readSheets (clear == 1) s) else none

/-- READ_SHEETS. -/
def execReadSheets (r : Request) (s : State) : Host.Outcome State Fault Refusal :=
  .next (command 40 4 readSheetsHandler r s)

end Sys2Proof.Machine
end

