-- ==== Sys2Proof/Machine/Stations.lean ====
section
/-! DEFINITION. The events of the station lines and the commands of the station unit (R84 to R128). -/
namespace Sys2Proof.Machine

/-! ### The line monitor (R86 to R90) -/

/-- A change of what a station line physically is (log 12). -/
def setLine (st : Station) (f : LineInput → LineInput) (s : State) : State :=
  { s with lines := s.lines.set st (f (s.lines.get st)) }

/-- A report of the line monitor: it works in RUN only (R86, R110). -/
def monitored (f : State → State) (s : State) : State := whenUp (fun s => if standby s then s else f s) s

/-- Presence appears (R87). -/
def presenceAppears (st : Station) (s : State) : State :=
  let x := station s st
  if x.presence then s
  else
    let s1 := putStation st { x with presence := true } s
    if x.state = .empty then
      if x.condition.short then enterState st .lineFault s1 else probe st s1
    else s1

/-- PRESENCE_APPEARS. -/
def execPresenceAppears (st : Station) (s : State) : Host.Outcome State Fault Refusal :=
  .next (monitored (presenceAppears st) (setLine st (fun l => { l with presence := true }) s))

/-- The condition of a line without a cartridge: OPEN becomes NORMAL (R86). -/
def LineCondition.vacant : LineCondition → LineCondition
  | .lineOpen => .normal
  | c => c

/-- Presence is lost (R88). -/
def presenceLost (st : Station) (s : State) : State :=
  let x := station s st
  if x.presence then
    enterState st .empty
      (cancelAll st (putStation st { x with presence := false, condition := x.condition.vacant } s))
  else s

/-- PRESENCE_LOST. -/
def execPresenceLost (st : Station) (s : State) : Host.Outcome State Fault Refusal :=
  .next (monitored (presenceLost st)
    (setLine st (fun l => { presence := false, condition := l.condition.vacant }) s))

/-- A short is reported (R89). -/
def shortReported (st : Station) (kind : ShortKind) (s : State) : State :=
  let x := station s st
  if x.condition = shortCondition kind then s
  else enterState st .lineFault (cancelAll st (putStation st { x with condition := shortCondition kind } s))

/-- SHORT_REPORTED. -/
def execShortReported (st : Station) (kind : ShortKind) (s : State) : Host.Outcome State Fault Refusal :=
  .next (monitored (shortReported st kind) (setLine st (fun l => { l with condition := shortCondition kind }) s))

/-- The condition a line takes when its short clears (R89). -/
def clearedCondition (presence lineOpen : Bool) : LineCondition := if presence && lineOpen then .lineOpen else .normal

/-- A short clears (R89). -/
def shortClears (st : Station) (lineOpen : Bool) (s : State) : State :=
  let x := station s st
  if x.condition.short then
    let s1 := putStation st { x with condition := clearedCondition x.presence lineOpen } s
    if x.state = .lineFault then
      if x.presence then probe st s1 else enterState st .empty s1
    else s1
  else s

/-- SHORT_CLEARS. -/
def execShortClears (st : Station) (lineOpen : Bool) (s : State) : Host.Outcome State Fault Refusal :=
  .next (monitored (shortClears st lineOpen)
    (setLine st (fun l => if l.condition.short then { l with condition := clearedCondition l.presence lineOpen } else l) s))

/-- The condition after a change to or from OPEN: OPEN is sensed only with a cartridge present (R86, R90). -/
def openChange (presence toOpen : Bool) (c : LineCondition) : LineCondition :=
  if toOpen then if presence && c == .normal then .lineOpen else c
  else if c = .lineOpen then .normal else c

/-- The line condition goes to or from OPEN: only the field changes (R90). -/
def lineOpenChange (st : Station) (toOpen : Bool) (s : State) : State :=
  let x := station s st
  putStation st { x with condition := openChange x.presence toOpen x.condition } s

/-- LINE_OPEN_CHANGE. -/
def execLineOpenChange (st : Station) (toOpen : Bool) (s : State) : Host.Outcome State Fault Refusal :=
  .next (monitored (lineOpenChange st toOpen)
    (setLine st (fun l => { l with condition := openChange l.presence toOpen l.condition }) s))

/-! ### Attempts and answers (R92 to R102, R119, R120) -/

/-- NONCE_DRAW: the draw in progress is this station's, and ends with its nonce; the PROOF's first attempt is
sent (R92, R100, R133, log 5). -/
def nonceDraw (st : Station) (nonce : BitVec 128) (s : State) : State :=
  if mayReturn (.nonce st) (.nonce nonce) s then
    let x := station s st
    endDraw (.nonce nonce)
      (putStation st { x with inFlight := x.inFlight.map fun f => { f with exchange := .proof (some nonce) } } s)
  else s

/-- NONCE_DRAW. -/
def execNonceDraw (st : Station) (nonce : BitVec 128) (s : State) : Host.Outcome State Fault Refusal :=
  .next (whenUp (nonceDraw st nonce) s)

/-- The exchange whose attempt is out on the line: a PROOF only once it has its nonce (R92). -/
def onLine (st : Station) (s : State) : Option Exchange :=
  match (station s st).inFlight with
  | none => none
  | some f => if (requestMessage f.exchange).isSome then some f.exchange else none

/-- EXCHANGE_WAIT_EXPIRED: the attempt fails (R93). -/
def execExchangeWaitExpired (st : Station) (s : State) : Host.Outcome State Fault Refusal :=
  .next (whenUp (fun s => if (onLine st s).isSome then failAttempt st s else s) s)

/-- The bytes an attempt reads reach the part: on an open line none do, and the attempt fails when its wait
expires (R90); so too when the first byte says that no answer is ready (R217). The line's condition is looked at
when the answer is read: an attempt sent while the line was OPEN may be answered if the line has returned to
NORMAL meanwhile, which R90 leaves open (DESIGN CHOICE, log 30). -/
def answered (st : Station) (e : Exchange) (bytes : List Byte) (s : State) (good : List Byte → State) : State :=
  if (s.lines.get st).condition = .lineOpen then s
  else match readAnswer e bytes with
    | .notReady => s
    | .bad => failAttempt st s
    | .body b => good b

/-- The exchange in flight has ended. -/
def endExchange (st : Station) (s : State) : State := putStation st { station s st with inFlight := none } s

/-- The fields after an identity is accepted (R98). -/
def StationRecord.identified (x : StationRecord) (serial : BitVec 64) (rated stored : Nat) : StationRecord :=
  if x.cartridge.map (·.serial) = some serial then { x.heard stored with cartridge := some ⟨serial, rated⟩ }
  else
    { x with cartridge := some ⟨serial, rated⟩, remaining := stored, written := stored, unwritten := 0
             toggle := false, graceUsed := 0, lowRaised := false }

/-- A good IDENT_READ answer (R97, R98). -/
def identGood (st colour : Station) (serial : BitVec 64) (rated stored : Nat) (s : State) : State :=
  let s1 := endExchange st s
  let s2 := putStation st { station s1 st with colour := some colour } s1
  if colour = st then
    enqueue st .proof (enterState st .challenging (putStation st ((station s2 st).identified serial rated stored) s2))
  else reject st .wrongStation s2

/-- The body of an IDENT_READ answer, its fields checked (R96, R217). -/
def identBody (st : Station) (s : State) (b : List Byte) : State :=
  let rated := u24 b 9
  let stored := u24 b 12
  match stationOf (u8 b 8) with
  | none => failAttempt st s
  | some colour =>
    if rated = 0 ∨ rated < stored then failAttempt st s
    else identGood st colour (bytesToBits 64 (b.take 8)) rated stored s

/-- IDENT_READ_ANSWER. -/
def execIdentReadAnswer (st : Station) (bytes : List Byte) (s : State) : Host.Outcome State Fault Refusal :=
  .next <| whenUp (fun s =>
    match onLine st s with
    | some .identRead => answered st .identRead bytes s (identBody st s)
    | _ => s) s

/-- A matching digest ends the proof: the counts, the state chosen, and a YIELD_WRITE where the threshold is
passed and none is pending (R101). -/
def proofGood (st : Station) (stored : Nat) (s : State) : State :=
  let s1 := endExchange st s
  let x := (station s1 st).heard stored
  let s2 := enterState st x.proven (putStation st x s1)
  let y := station s2 st
  let s3 := if Config.writeBackThreshold ≤ y.unwritten ∧ ¬ y.queue.contains .yieldWrite then requestWrite st s2 else s2
  startNext st s3

/-- The digest that a cartridge's proof must answer (R99). -/
def expectedDigest (serial : BitVec 64) (nonce : BitVec 128) (stored : Nat) : BitVec 256 :=
  Config.proofDigest (Config.proofKey Config.familyProofKey serial) nonce serial stored

/-- The body of a PROOF answer: checked, and its digest compared (R99 to R102). -/
def proofBody (st : Station) (nonce : BitVec 128) (s : State) (b : List Byte) : State :=
  let stored := u24 b 0
  match (station s st).cartridge with
  | none => s
  | some c =>
    if c.rated < stored then failAttempt st s
    else if bytesToBits 256 (b.drop 3) = expectedDigest c.serial nonce stored then proofGood st stored s
    else reject st .failedProof (endExchange st s)

/-- PROOF_ANSWER. -/
def execProofAnswer (st : Station) (bytes : List Byte) (s : State) : Host.Outcome State Fault Refusal :=
  .next <| whenUp (fun s =>
    match onLine st s with
    | some (.proof (some nonce)) => answered st (.proof (some nonce)) bytes s (proofBody st nonce s)
    | _ => s) s

/-- A write is confirmed: steps 1 to 5 of R119, the end of the remaining yield, the next exchange, and another
request where the threshold is passed (R119, log 25). Where the stored value answered is below the remaining yield, a
dose leaves another remaining yield before the answer than after it by these steps, where R127's first bullet says that
both orders leave the same: DESIGN CHOICE, log 32; unsafe where the two meet. -/
def writeConfirmed (st : Station) (stored : Nat) (s : State) : State :=
  let s1 := endExchange st s
  let x := station s1 st
  let y := x.heard stored
  let s2 := raise .writeBackDone (putStation st { y with toggle := !x.toggle } s1)
  let s3 := if 0 < x.remaining ∧ y.remaining = 0 then runsOut st s2 else s2
  let s4 := startNext st s3
  if Config.writeBackThreshold ≤ y.unwritten ∧ ¬ (station s4 st).queue.contains .yieldWrite then requestWrite st s4
  else s4

/-- A write is stale: the counts, the toggle, and another YIELD_WRITE at once (R120). -/
def writeStale (st : Station) (stored : Nat) (s : State) : State :=
  let s1 := endExchange st s
  let x := station s1 st
  startNext st (requestWrite st (putStation st { x.heard stored with toggle := !x.toggle } s1))

/-- The body of a YIELD_WRITE answer, checked (R118 to R120). -/
def writeBody (st : Station) (value : Nat) (toggle : Bool) (s : State) (b : List Byte) : State :=
  let stored := u24 b 0
  match (station s st).cartridge with
  | none => s
  | some c =>
    if u8 b 3 ≠ toggle.toNat ∨ c.rated < stored then failAttempt st s
    else if stored ≤ value then writeConfirmed st stored s
    else writeStale st stored s

/-- YIELD_WRITE_ANSWER. -/
def execYieldWriteAnswer (st : Station) (bytes : List Byte) (s : State) : Host.Outcome State Fault Refusal :=
  .next <| whenUp (fun s =>
    match onLine st s with
    | some (.yieldWrite value toggle base) =>
      answered st (.yieldWrite value toggle base) bytes s (writeBody st value toggle s)
    | _ => s) s

/-! ### The commands -/

/-- A command whose first field is a station (R84). -/
def stationHandler (f : Station → List Byte → State → Option Answered) : Handler := fun body s =>
  match stationOf (u8 body 0) with
  | none => none
  | some st => f st body s

/-- RECHECK_STATION at the station unit (R105). -/
def recheckStation (st : Station) (s : State) : Answered :=
  inRun s <|
    match (station s st).state with
    | .genuine | .grace => accept [] (recheck st s)
    | .unreachable => accept [] (probe st s)
    | _ => refuse .badState s

/-- RECHECK_STATION. -/
def execRecheckStation (r : Request) (s : State) : Host.Outcome State Fault Refusal :=
  .next (command 49 4 (stationHandler fun st _ s => some (recheckStation st s)) r s)

/-- The response body of READ_STATION (R107, log 19). That the attempt number takes one byte is the model's choice: R215
names no width for it (DESIGN CHOICE, log 19). -/
def stationBody (x : StationRecord) : List Byte :=
  [byteOf x.state.code] ++ optional 1 (fun w => [byteOf w.code]) x.rejectReason ++
  flag x.presence ++ [byteOf x.condition.code] ++
  optional 8 (fun v => bitsToBytes 8 v.serial) x.cartridge ++
  optional 1 (fun t => [byteOf (stationCode t)]) x.colour ++
  optional 3 (fun v => le 3 v.rated) x.cartridge ++
  le 3 x.remaining ++ le 3 x.written ++ le 3 x.unwritten ++ flag x.toggle ++
  [byteOf x.graceAllowance, byteOf x.graceUsed] ++ flag x.lowRaised ++ [byteOf x.linkErrors] ++
  optional 2 (fun f => [byteOf f.exchange.kind.code, byteOf f.attempt]) x.inFlight ++
  listed 2 1 (fun k => [byteOf k.code]) x.queue

/-- READ_STATION at the station unit, taken in STANDBY too (R107). -/
def readStation (st : Station) (clear : Bool) (s : State) : Answered :=
  let x := station s st
  ok (stationBody x) (if clear then putStation st { x with linkErrors := 0 } s else s)

/-- The fields of READ_STATION (R107). -/
def readStationHandler : Handler :=
  stationHandler fun st body s => if yesNo (u8 body 1) then some (readStation st (u8 body 1 == 1) s) else none

/-- READ_STATION. -/
def execReadStation (r : Request) (s : State) : Host.Outcome State Fault Refusal :=
  .next (command 48 4 readStationHandler r s)

/-- SET_GRACE at the station unit: in GRACE the allowance may exhaust the station (R116). -/
def setGrace (st : Station) (allowance : Nat) (s : State) : Answered :=
  inRun s <|
    let x := station s st
    let s1 := putStation st { x with graceAllowance := allowance } s
    ok [] (if x.state = .grace ∧ allowance ≤ x.graceUsed then enterState st .exhausted s1 else s1)

/-- SET_GRACE. -/
def execSetGrace (r : Request) (s : State) : Host.Outcome State Fault Refusal :=
  .next (command 50 4 (stationHandler fun st body s => some (setGrace st (u8 body 1) s)) r s)

/-- WRITE_BACK_YIELD at the station unit (R122). -/
def writeBackYield (st : Station) (s : State) : Answered :=
  inRun s (if (station s st).state.acceptsWrite then accept [] (requestWrite st s) else refuse .badState s)

/-- WRITE_BACK_YIELD. -/
def execWriteBackYield (r : Request) (s : State) : Host.Outcome State Fault Refusal :=
  .next (command 51 4 (stationHandler fun st _ s => some (writeBackYield st s)) r s)

/-- The slot that a slot code names: a station, or NONE (R125). -/
def slotOf (code : Nat) : Option Station := stationOf code

/-- SET_ROTATION at the station unit (R125). -/
def setRotation (count interval : Nat) (slots : List (Option Station)) (s : State) : Answered :=
  let r : Rotation := { slots := slots, count := count, interval := interval, pointer := 0, counter := 0 }
  inRun s (ok [] { s with stationUnit := { s.stationUnit with rotation := r } })

/-- The fields of SET_ROTATION; every slot code is checked (R125). -/
def setRotationHandler : Handler := fun body s =>
  let count := u8 body 0
  let interval := u8 body 1
  let codes := (List.range 16).map fun n => u8 body (n + 2)
  if 1 ≤ count ∧ count ≤ 16 ∧ 1 ≤ interval ∧ codes.all (fun c => decide (c ≤ 5)) then
    some (setRotation count interval (codes.map slotOf) s)
  else none

/-- SET_ROTATION. -/
def execSetRotation (r : Request) (s : State) : Host.Outcome State Fault Refusal :=
  .next (command 52 20 setRotationHandler r s)

/-- The response body of READ_ROTATION (R126). That the sixteen slot codes, always sixteen, stand without a list's count
byte is how the model reads R215 (DEDUCED, log 19). -/
def rotationBody (r : Rotation) : List Byte :=
  [byteOf r.count, byteOf r.interval] ++ (r.slots.map fun o => byteOf (slotCode o)) ++
  [byteOf r.pointer] ++ le 2 r.counter

/-- READ_ROTATION at the station unit, taken in STANDBY too (R126). -/
def readRotation (s : State) : Answered := ok (rotationBody s.stationUnit.rotation) s

/-- READ_ROTATION. -/
def execReadRotation (r : Request) (s : State) : Host.Outcome State Fault Refusal :=
  .next (command 53 0 (fun _ s => some (readRotation s)) r s)

end Sys2Proof.Machine
end

