-- ==== Sys2Proof/Machine/ControlPort.lean ====
section
/-! DEFINITION. The control port's own events and command (R179 to R191): raw window accesses, IDENTIFY, and
what a host read of the window shows. -/
namespace Sys2Proof.Machine

/-! ### IDENTIFY (R189) -/

/-- The family name, Gondara, followed by a zero byte (R189, R215). -/
def familyName : List Byte := [0x47, 0x6F, 0x6E, 0x64, 0x61, 0x72, 0x61, 0x00]

/-- The capacities of R189, in its order. -/
def capacities : List Nat :=
  [Config.accountCount, Config.groupCount, Config.jobCount, Config.sheetCount, Config.stationCount,
   Config.slotCount, Config.descriptorCount, Config.extentCount, Config.extentBytes, Config.fifoBytes,
   Config.areaBytes, Config.areaBytes]

/-- The response body of IDENTIFY (R189, log 18). -/
def identifyBody (s : State) : List Byte :=
  familyName ++ [47, 1] ++ capacities.flatMap (le 4) ++
  [byteOf s.retentionUnit.lastReset.code, byteOf s.retentionUnit.power.code] ++ le 4 s.holdUnit.minute

/-- IDENTIFY at the control port, taken in STANDBY too (R189). -/
def identify (s : State) : Answered := ok (identifyBody s) s

/-- IDENTIFY. -/
def execIdentify (r : Request) (s : State) : Host.Outcome State Fault Refusal :=
  .next (command 1 0 (fun _ s => some (identify s)) r s)

/-! ### A GO taken of the command area as it stands (R181, R183) -/

/-- The defined body length and the handling of each command code (08, 8.6; R195 to R201, R206, R211, R212). -/
def handlerOf : Nat → Option (Nat × Handler)
  | 1 => some (0, fun _ s => some (identify s))
  | 16 => some (16, addAccountHandler)
  | 17 => some (8, creditAccountHandler)
  | 18 => some (4, setAccountGroupHandler)
  | 19 => some (36, setCredentialHandler)
  | 20 => some (4, numberHandler suspendAccount)
  | 21 => some (4, numberHandler resumeAccount)
  | 22 => some (4, numberHandler retireAccount)
  | 23 => some (4, numberHandler readAccount)
  | 24 => some (4, findAccountHandler)
  | 25 => some (4, numberHandler clearCounters)
  | 26 => some (8, setGroupPolicyHandler)
  | 27 => some (4, readGroupPolicyHandler)
  | 32 => some (20, openJobHandler)
  | 33 => some (12, extendJobHandler)
  | 34 => some (4, tagHandler closeJob)
  | 35 => some (4, tagHandler abortJob)
  | 36 => some (4, tagHandler readJob)
  | 37 => some (4, tagHandler dismissJob)
  | 40 => some (4, readSheetsHandler)
  | 48 => some (4, readStationHandler)
  | 49 => some (4, stationHandler fun st _ s => some (recheckStation st s))
  | 50 => some (4, stationHandler fun st body s => some (setGrace st (u8 body 1) s))
  | 51 => some (4, stationHandler fun st _ s => some (writeBackYield st s))
  | 52 => some (20, setRotationHandler)
  | 53 => some (0, fun _ s => some (readRotation s))
  | 56 => some (4, readCaptureHandler)
  | 64 => some (36, releaseScanHandler)
  | 65 => some (4, slotHandler cancelRelease)
  | 66 => some (4, slotHandler deleteScan)
  | 67 => some (4, numberHandler listHeld)
  | 68 => some (4, readScanHandler)
  | 72 => some (0, fun _ s => some (readNotices s))
  | 73 => some (20, noticesHandler clearNotices)
  | 74 => some (20, noticesHandler setNoticeEnable)
  | 76 => some (0, fun _ s => some (readFault s))
  | 77 => some (0, fun _ s => some (clearFault s))
  | 80 => some (0, fun _ s => some (preserveAccounts s))
  | 84 => some (0, fun _ s => some (enterStandby s))
  | 85 => some (0, fun _ s => some (exitStandby s))
  | _ => none

/-- A GO that is taken starts the command that stands in the command area; a code that is not defined is refused
with BAD_FIELD (R181, R183). -/
def runArea (s : State) : State :=
  let s1 := takeGo s
  match handlerOf (areaCode s1) with
  | none => conclude (refuse .badField s1)
  | some (length, h) => checkAndHand length h s1

/-- A write of the control/status word with GO set (R181, R182). -/
def writeGo (s : State) : State := if s.controlPort.phase = .busy then collide s else runArea s

/-- GO_COLLISION. Where the phase is not BUSY the GO is taken (R182, log 28). -/
def execGoCollision (s : State) : Host.Outcome State Fault Refusal := .next (whenUp writeGo s)

/-- UNDEFINED_COMMAND_CODE: a record with such a code is written, and GO is set (R183, log 1). -/
def execUndefinedCommandCode (code : BitVec 16) (r : Request) (s : State) : Host.Outcome State Fault Refusal :=
  .next (whenUp (fun s =>
    if s.controlPort.phase = .busy then collide s else runArea (storeRequest code.toNat r s)) s)

/-! ### Writes of the window (R179, R182) -/

/-- A write that reaches bytes of the command area (R182). -/
def areaWrite (offset : Nat) (bytes : List Byte) (s : State) : State :=
  if s.controlPort.phase = .busy then collide s else storeCommandBytes offset bytes s

/-- An access reaches a region of the window. -/
def reaches (offset length start size : Nat) : Bool := decide (offset < start + size) && decide (start < offset + length)

/-- COMMAND_AREA_WRITE; a write that covers no byte of the area is no such write. -/
def execCommandAreaWrite (offset : Nat) (bytes : List Byte) (s : State) : Host.Outcome State Fault Refusal :=
  .next (whenUp (fun s =>
    if reaches offset bytes.length 0 Config.areaBytes then areaWrite offset bytes s else s) s)

/-- A write anywhere in the window, in one access (R179): an aligned 4-byte write of the control/status word is a
GO if its bit 0 is set; any other access that touches that word or the stream port is not taken; bytes of the
command area are stored; the rest is discarded. -/
def windowWrite (offset : Nat) (bytes : List Byte) (s : State) : State :=
  if offset = 0x100 ∧ bytes.length = 4 then
    if (bytes.headD 0).getLsbD 0 then writeGo s else s
  else if reaches offset bytes.length 0x100 4 || reaches offset bytes.length 0x108 4 then s
  else if reaches offset bytes.length 0 Config.areaBytes then areaWrite offset bytes s
  else s

/-- WINDOW_WRITE. -/
def execWindowWrite (offset : Nat) (bytes : List Byte) (s : State) : Host.Outcome State Fault Refusal :=
  .next (whenUp (windowWrite offset bytes) s)

/-! ### What a read of the window shows (R179, R187, R191, R213, R214) -/

/-- The control/status word; GO reads 0 (R180, R213). -/
def controlWord (s : State) : Nat :=
  2 * s.controlPort.phase.code + 8 * s.controlPort.collision.toNat + 16 * s.retentionUnit.power.code

/-- The summary word (R193, R213). -/
def summaryWord (u : NoticeUnit) : Nat :=
  (u.groupSummary .account).toNat + 2 * (u.groupSummary .job).toNat + 4 * (u.groupSummary .sheet).toNat +
  8 * (u.groupSummary .station).toNat + 16 * (u.groupSummary .scan).toNat + 256 * u.overall.toNat

/-- The fault word (R198, R213). -/
def faultWord (u : NoticeUnit) : Nat :=
  let kind := (u.fault.map fun f => f.kind.code).getD 0
  u.fault.isSome.toNat + 2 * u.more.toNat + 256 * kind + 4096 * (u.fault.bind (·.account)).isSome.toNat +
  8192 * (u.fault.bind (·.slot)).isSome.toNat + 16384 * (u.fault.bind (·.band)).isSome.toNat

/-- The notice group whose word stands at an offset from the first of five words. -/
def groupAt : Nat → Option NoticeGroup
  | 0 => some .account
  | 4 => some .job
  | 8 => some .sheet
  | 12 => some .station
  | 16 => some .scan
  | _ => none

/-- The words of the window outside the two areas and the stream port, by offset; zeros elsewhere (R179, R213). -/
def wordAt (offset : Nat) (s : State) : Nat :=
  let u := s.noticeUnit
  if offset = 0x100 then controlWord s
  else if offset = 0x104 then s.holdUnit.fifo.length
  else if 0x110 ≤ offset ∧ offset ≤ 0x120 then ((groupAt (offset - 0x110)).map fun g => (u.pending.get g).toNat).getD 0
  else if 0x130 ≤ offset ∧ offset ≤ 0x140 then ((groupAt (offset - 0x130)).map fun g => (u.enabled.get g).toNat).getD 0
  else if offset = 0x150 then summaryWord u
  else if offset = 0x160 then faultWord u
  else if offset = 0x164 then (u.fault.map (·.minute)).getD 0
  else if offset = 0x168 then ((u.fault.bind (·.account)).getD 0) + 65536 * ((u.fault.bind (·.slot)).getD 0)
  else if offset = 0x16C then (u.fault.bind (·.band)).getD 0
  else 0

/-- The byte that stands at a location of the window (R179, R213). The stream port shows no byte of its FIFO to any
read but its own. -/
def windowByte (s : State) (offset : Nat) : Byte :=
  if offset < 0x80 then Memory.read s.controlPort.commandArea offset
  else if offset < 0x100 then Memory.read s.controlPort.responseArea (offset - 0x80)
  else byteOf (wordAt (offset - offset % 4) s / 256 ^ (offset % 4))

/-- What a read of so many bytes in one access returns, and what it leaves (R179, R188). An aligned 4-byte read of the
stream port takes bytes of the FIFO. Any other access that touches the control/status word or the stream port, but
for the aligned 4-byte read of that word, is not taken and returns zeros. Every other read returns the bytes it
covers as they stand. -/
def windowRead (offset length : Nat) (s : State) : List Byte × State :=
  if offset = 0x108 ∧ length = 4 then (le 4 (readStreamPort s).controlPort.streamWord.toNat, readStreamPort s)
  else if down s then (List.replicate length 0, s)
  else if (reaches offset length 0x100 4 && !(offset == 0x100 && length == 4)) || reaches offset length 0x108 4 then
    (List.replicate length 0, s)
  else ((List.range length).map fun n => windowByte s (offset + n), s)

/-- The word that a 4-byte read of the window returns (R179, R213). -/
def windowWord (offset : Nat) (s : State) : Word := BitVec.ofNat 32 (ofLe (windowRead offset 4 s).1)

end Sys2Proof.Machine
end

