-- ==== Sys2Proof/Machine/Dispatch.lean ====
section
/-! DEFINITION. One arm for each command and event: its meaning. -/
namespace Sys2Proof.Machine

/-- The effect of a command or event on everything but the queue. -/
def exec (i : Instr) (s : State) : Host.Outcome State Fault Refusal :=
  match i with
  | .identify r => Sys2Proof.Machine.execIdentify r s
  | .addAccount r => Sys2Proof.Machine.execAddAccount r s
  | .creditAccount r => Sys2Proof.Machine.execCreditAccount r s
  | .setAccountGroup r => Sys2Proof.Machine.execSetAccountGroup r s
  | .setCredential r => Sys2Proof.Machine.execSetCredential r s
  | .suspendAccount r => Sys2Proof.Machine.execSuspendAccount r s
  | .resumeAccount r => Sys2Proof.Machine.execResumeAccount r s
  | .retireAccount r => Sys2Proof.Machine.execRetireAccount r s
  | .readAccount r => Sys2Proof.Machine.execReadAccount r s
  | .findAccount r => Sys2Proof.Machine.execFindAccount r s
  | .clearCounters r => Sys2Proof.Machine.execClearCounters r s
  | .setGroupPolicy r => Sys2Proof.Machine.execSetGroupPolicy r s
  | .readGroupPolicy r => Sys2Proof.Machine.execReadGroupPolicy r s
  | .openJob r => Sys2Proof.Machine.execOpenJob r s
  | .extendJob r => Sys2Proof.Machine.execExtendJob r s
  | .closeJob r => Sys2Proof.Machine.execCloseJob r s
  | .abortJob r => Sys2Proof.Machine.execAbortJob r s
  | .readJob r => Sys2Proof.Machine.execReadJob r s
  | .dismissJob r => Sys2Proof.Machine.execDismissJob r s
  | .readSheets r => Sys2Proof.Machine.execReadSheets r s
  | .readStation r => Sys2Proof.Machine.execReadStation r s
  | .recheckStation r => Sys2Proof.Machine.execRecheckStation r s
  | .setGrace r => Sys2Proof.Machine.execSetGrace r s
  | .writeBackYield r => Sys2Proof.Machine.execWriteBackYield r s
  | .setRotation r => Sys2Proof.Machine.execSetRotation r s
  | .readRotation r => Sys2Proof.Machine.execReadRotation r s
  | .readCapture r => Sys2Proof.Machine.execReadCapture r s
  | .releaseScan r => Sys2Proof.Machine.execReleaseScan r s
  | .cancelRelease r => Sys2Proof.Machine.execCancelRelease r s
  | .deleteScan r => Sys2Proof.Machine.execDeleteScan r s
  | .listHeld r => Sys2Proof.Machine.execListHeld r s
  | .readScan r => Sys2Proof.Machine.execReadScan r s
  | .readNotices r => Sys2Proof.Machine.execReadNotices r s
  | .clearNotices r => Sys2Proof.Machine.execClearNotices r s
  | .setNoticeEnable r => Sys2Proof.Machine.execSetNoticeEnable r s
  | .readFault r => Sys2Proof.Machine.execReadFault r s
  | .clearFault r => Sys2Proof.Machine.execClearFault r s
  | .preserveAccounts r => Sys2Proof.Machine.execPreserveAccounts r s
  | .enterStandby r => Sys2Proof.Machine.execEnterStandby r s
  | .exitStandby r => Sys2Proof.Machine.execExitStandby r s
  | .goCollision => Sys2Proof.Machine.execGoCollision s
  | .commandAreaWrite offset bytes => Sys2Proof.Machine.execCommandAreaWrite offset bytes s
  | .windowWrite offset bytes => Sys2Proof.Machine.execWindowWrite offset bytes s
  | .streamPortRead => Sys2Proof.Machine.execStreamPortRead s
  | .keyDraw key => Sys2Proof.Machine.execKeyDraw key s
  | .nonceDraw st nonce => Sys2Proof.Machine.execNonceDraw st nonce s
  | .stopRequest tag => Sys2Proof.Machine.execStopRequest tag s
  | .feedAsk ask => Sys2Proof.Machine.execFeedAsk ask s
  | .delivered report => Sys2Proof.Machine.execDelivered report s
  | .jammed imaged report => Sys2Proof.Machine.execJammed imaged report s
  | .badFrame bytes => Sys2Proof.Machine.execBadFrame bytes s
  | .frameGapTimeout bytes => Sys2Proof.Machine.execFrameGapTimeout bytes s
  | .sheetLapse sheet => Sys2Proof.Machine.execSheetLapse sheet s
  | .rotationInterval => Sys2Proof.Machine.execRotationInterval s
  | .presenceAppears st => Sys2Proof.Machine.execPresenceAppears st s
  | .presenceLost st => Sys2Proof.Machine.execPresenceLost st s
  | .shortReported st kind => Sys2Proof.Machine.execShortReported st kind s
  | .shortClears st lineOpen => Sys2Proof.Machine.execShortClears st lineOpen s
  | .lineOpenChange st toOpen => Sys2Proof.Machine.execLineOpenChange st toOpen s
  | .exchangeWaitExpired st => Sys2Proof.Machine.execExchangeWaitExpired st s
  | .identReadAnswer st bytes => Sys2Proof.Machine.execIdentReadAnswer st bytes s
  | .proofAnswer st bytes => Sys2Proof.Machine.execProofAnswer st bytes s
  | .yieldWriteAnswer st bytes => Sys2Proof.Machine.execYieldWriteAnswer st bytes s
  | .pageBegin => Sys2Proof.Machine.execPageBegin s
  | .line pixels => Sys2Proof.Machine.execLine pixels s
  | .lineLimit => Sys2Proof.Machine.execLineLimit s
  | .pageEnd => Sys2Proof.Machine.execPageEnd s
  | .scanAbort => Sys2Proof.Machine.execScanAbort s
  | .bandWriteEnd => Sys2Proof.Machine.execBandWriteEnd s
  | .minuteTick => Sys2Proof.Machine.execMinuteTick s
  | .expiryWalk => Sys2Proof.Machine.execExpiryWalk s
  | .bandReadEnd outcome => Sys2Proof.Machine.execBandReadEnd outcome s
  | .streamMove count => Sys2Proof.Machine.execStreamMove count s
  | .nvWriteEnd completes => Sys2Proof.Machine.execNvWriteEnd completes s
  | .retainedSupplyLost => Sys2Proof.Machine.execRetainedSupplyLost s
  | .coldStart => Sys2Proof.Machine.execColdStart s
  | .warmReset cause => Sys2Proof.Machine.execWarmReset cause s
  | .healthTestEnd passes => Sys2Proof.Machine.execHealthTestEnd passes s
  | .sheetTimerSecond sheet => Sys2Proof.Machine.execSheetTimerSecond sheet s
  | .resetCauseEnds cause => Sys2Proof.Machine.execResetCauseEnds cause s
  | .undefinedCommandCode code r => Sys2Proof.Machine.execUndefinedCommandCode code r s

end Sys2Proof.Machine
end

