-- ==== Sys2Proof/Machine/Step.lean ====
section
/-! DEFINITION. One step of the part: the event at the front of the queue is taken. -/
namespace Sys2Proof.Machine

/-- Take the event at the front of the queue and run `exec` on it with the queue's rest. With nothing waiting
the part idles, but for a preserve walk between two writes, which starts its next write (R207, log 3), and a scanner
that holds messages back, which sends what it now may (R145, log 29). -/
def step (s : State) : Host.Outcome State Fault Refusal :=
  match s.pending with
  | c :: rest => exec c { s with pending := rest }
  | [] => .next (idle s)

/-- The state with the command a word spells put at the front of the queue; unchanged where the word spells none. -/
def State.withFetchWord (s : State) (nbits w : Nat) : State :=
  match Sys2Proof.decodeTableWord nbits w with
  | none => s
  | some c => { s with pending := c :: s.pending }

end Sys2Proof.Machine
end

