-- ==== Sys2Proof/Safety.lean ====
section
/-! DEFINITION. What the statements about the part speak of: when a command is taken, what it answers, which
parts of the state a step may change, and the invariants that every step keeps. -/
namespace Sys2Proof.Machine

/-! ### Commands and answers -/

/-- The part is up and no command waits: a GO is taken (R181). -/
abbrev ready (s : State) : Prop := down s = false ∧ s.controlPort.phase ≠ .busy

/-- The part is ready and in RUN. -/
abbrev readyInRun (s : State) : Prop := ready s ∧ standby s = false

/-- The command record gives a body of the defined length `n` that begins with these fields; the padding after
them is not checked (R183). -/
abbrev carries (r : Request) (n : Nat) (fields : List Byte) : Prop :=
  r.length.toNat = n ∧ r.body.length = n ∧ fields <+: r.body

/-- The response area as the host reads it: the code, and the body of the length that stands there. -/
def response (s : State) : Nat × List Byte :=
  (ofLe (Memory.readBytes s.controlPort.responseArea 0 2),
   Memory.readBytes s.controlPort.responseArea 4 (ofLe (Memory.readBytes s.controlPort.responseArea 2 2)))

/-- A command has been answered with this code and body: the phase is DONE or ACCEPTED, and COLLISION is clear
(R180, R181, R184). -/
def answers (t : State) (code : Response) (body : List Byte) : Prop :=
  response t = (code.code, body) ∧
  t.controlPort.phase = (if code = .accepted then .accepted else .done) ∧ t.controlPort.collision = false

/-- The byte that names a class in a command's body (01, 1.3). -/
def classByte : UnitClass → Byte
  | .mono => 0
  | .colour => 1
  | .scan => 2

/-- The state with COLLISION set, and nothing else changed. -/
def withCollision (s : State) : State := { s with controlPort := { s.controlPort with collision := true } }

/-! ### Frames -/

/-- The parts of the state. -/
inductive Part where
  | control | account | job | sheet | station | capture | hold | random | notice | retention | image | lines
  | freeCount | queue
  deriving DecidableEq, Repr

/-- A part has the same value in both states. -/
def Part.same (s t : State) : Part → Prop
  | .control => t.controlPort = s.controlPort
  | .account => t.accountUnit = s.accountUnit
  | .job => t.jobUnit = s.jobUnit
  | .sheet => t.sheetLink = s.sheetLink
  | .station => t.stationUnit = s.stationUnit
  | .capture => t.captureUnit = s.captureUnit
  | .hold => t.holdUnit = s.holdUnit
  | .random => t.randomSource = s.randomSource
  | .notice => t.noticeUnit = s.noticeUnit
  | .retention => t.retentionUnit = s.retentionUnit
  | .image => t.imageMemory = s.imageMemory
  | .lines => t.lines = s.lines
  | .freeCount => t.freeCount = s.freeCount
  | .queue => t.pending = s.pending

/-- No part but these has changed. -/
def onlyParts (changed : List Part) (s t : State) : Prop := ∀ p, p ∉ changed → p.same s t

/-- A preserve walk after a field of R4 of the account at an index has changed: the write of that entry in progress is
stale, a walk that has written the entry is dirty, and one that has yet to reach it goes on as it was (R207, R208). -/
def Walk.accountChanged (i : Nat) (w : Walk) : Walk :=
  { w with
    stale := w.stale || (decide (w.position = .account i) && w.writing.isSome)
    dirty := w.dirty || (match w.position with | .groups => false | .account p => decide (i < p)) }

/-- A preserve walk after the group policy table has changed: the table's write in progress is stale, and a walk that
has left the table is dirty (R207, R208). -/
def Walk.groupsChanged (w : Walk) : Walk :=
  { w with
    stale := w.stale || (decide (w.position = .groups) && w.writing.isSome)
    dirty := w.dirty || decide (w.position ≠ .groups) }

/-- An event of one account: no other account has changed, nor the group policy table, nor anything of the
retention unit but the walk's marks, and these only if a field of R4 has changed (R207, R208). -/
def onlyAccount (i : Nat) (s t : State) : Prop :=
  (∀ j, j ≠ i → account t j = account s j) ∧ t.accountUnit.groups = s.accountUnit.groups ∧
  t.accountUnit.groupsPreserved = s.accountUnit.groupsPreserved ∧
  t.retentionUnit = { s.retentionUnit with
    walk := if sameForImage (account s i) (account t i) then s.retentionUnit.walk
      else s.retentionUnit.walk.map (Walk.accountChanged i) }

/-- The entry after an event that makes it `b` from `a`: preserved falls if a field of R4 changed. -/
def afterEvent (a b : Account) : Account := { b with preserved := sameForImage a b && a.preserved }

/-- An event turns the account at an index into `b`, but for its preserved flag (R4), and changes nothing else
but the control port and the walk's marks. -/
def accountBecomes (i : Nat) (b : Account) (s t : State) : Prop :=
  account t i = afterEvent (account s i) b ∧ onlyAccount i s t ∧ onlyParts [.control, .account, .retention] s t

/-- These notices have been raised, and nothing else of the notice unit has changed but the count of interrupts
(R192, R194). -/
def raised (ns : List Notice) (s t : State) : Prop :=
  (∀ n, t.noticeUnit.pending.has n = (s.noticeUnit.pending.has n || ns.contains n)) ∧
  t.noticeUnit.enabled = s.noticeUnit.enabled ∧ t.noticeUnit.fault = s.noticeUnit.fault ∧
  t.noticeUnit.more = s.noticeUnit.more

/-- An event of one job entry: no other entry has changed, nor the last-assigned tag, nor the stop requests. -/
def onlyJob (k : Nat) (s t : State) : Prop :=
  (∀ k', k' ≠ k → Table.find t.jobUnit.jobs k' = Table.find s.jobUnit.jobs k') ∧
  t.jobUnit.lastTag = s.jobUnit.lastTag ∧ t.jobUnit.stopRequests = s.jobUnit.stopRequests

/-- A CLOSING PRINT job with nothing committed left settles as `j`, its owner's entry having come to `a` when the
settlement begins: the units not charged return, and the last open job of a RETIRING owner frees it (R26, R49). -/
def printSettled (k i : Nat) (j : Job) (a : Account) (s t : State) : Prop :=
  Table.find t.jobUnit.jobs k = some { j with state := .settled, owner := none } ∧
  account t i = (if a.state = .retiring ∧ a.openJobs ≤ 1 then Account.free false
    else afterEvent (account s i)
      { a.giveBack (j.reserved.sub j.charged) with openJobs := a.openJobs - 1 }) ∧
  onlyAccount i s t

/-- The owner's group allows an OPEN_JOB: COLOUR for a PRINT job that asks for it, scanning for a SCAN job, and one
more open job, and for a SCAN job one more held scan (R37 check 5). -/
abbrev groupPermits (f : OpenFields) (a : Account) (p : GroupPolicy) : Prop :=
  (f.kind = .print → 0 < f.request.colour → p.colourAllowed = true) ∧
  (f.kind = .scan → p.scanAllowed = true) ∧
  a.openJobs < p.maxOpenJobs ∧
  (f.kind = .scan → a.heldScans < p.maxHeldScans)

/-- The stop requests that the account unit issues for an account (R20, R25). -/
def stopsFor (i : Nat) (why : StopReason) (s : State) : List (Nat × StopReason) :=
  (s.jobUnit.jobs.filter fun e => e.2.owner == some i && e.2.state != .settled).map fun e => (e.2.tag, why)

/-- An event of one station: no other station has changed, nor the rotation. -/
def onlyStation (st : Station) (s t : State) : Prop :=
  (∀ st', st' ≠ st → station t st' = station s st') ∧ t.stationUnit.rotation = s.stationUnit.rotation

/-- Some job that may still commit has used a station: the loss of the station stops it (R45). -/
def usersOf (st : Station) (s : State) : Bool :=
  s.jobUnit.jobs.any fun e => (e.2.state == .ready || e.2.state == .active) && e.2.stationsUsed.get st

/-- A station is lost: every READY or ACTIVE job that has used it is STOPPED for it, and no other field of any job
changes (R44, R45, R106). -/
def jobsLose (st : Station) (s t : State) : Prop :=
  (∀ k, Table.find t.jobUnit.jobs k = (Table.find s.jobUnit.jobs k).map fun j =>
    if (j.state = .ready ∨ j.state = .active) ∧ j.stationsUsed.get st = true then
      { j with state := .stopped, stopReason := some .station }
    else j) ∧
  t.jobUnit.lastTag = s.jobUnit.lastTag ∧ t.jobUnit.stopRequests = s.jobUnit.stopRequests

/-- The notices of a station's loss: JOB_STOPPED with the others if the loss stops a job. -/
def lossNotices (st : Station) (s : State) (others : List Notice) : List Notice :=
  if usersOf st s then .jobStopped :: others else others

/-- The station table after an event that makes the record of one station `x`. -/
def stationBecomes (st : Station) (x : StationRecord) (s t : State) : Prop :=
  station t st = x ∧ onlyStation st s t

/-- What a station line physically is after an event of it (log 12). -/
def lineBecomes (st : Station) (l : LineInput) (s t : State) : Prop :=
  t.lines.get st = l ∧ ∀ st', st' ≠ st → t.lines.get st' = s.lines.get st'

/-- The draws asked for but those of one station's nonce. -/
def drawsWithout (st : Station) (s : State) : RandomSource :=
  { s.randomSource with draws := s.randomSource.draws.filter fun d => d != .nonce st }

/-- No frame is being gathered on the sheet link: the bytes that come next begin one (R55). -/
abbrev linkIdle (s : State) : Prop := s.sheetLink.receiver = .idle

/-- What may wait in a station's queue once it has been read: a YIELD_WRITE and a PROOF at most, in either order
(R91). -/
def legalQueues : List (List ExchangeKind) :=
  [[], [.yieldWrite], [.proof], [.yieldWrite, .proof], [.proof, .yieldWrite]]

/-- A station with no exchange in flight starts the head of its queue; a PROOF that finds the random source UNHEALTHY
stays in the queue, and the exchange behind it starts (R92, R132). A write takes its value, toggle and base as they
stand (R117); that a PROOF is in flight before its nonce is drawn is log 5. -/
def nextStarted (h : Health) (x : StationRecord) : StationRecord :=
  let write : InFlight := ⟨.yieldWrite x.remaining x.toggle x.unwritten, 1⟩
  if x.inFlight.isSome then x
  else match x.queue with
    | .yieldWrite :: rest => { x with queue := rest, inFlight := some write }
    | .proof :: rest =>
      if h = .healthy then { x with queue := rest, inFlight := some ⟨.proof none, 1⟩ }
      else if rest = [.yieldWrite] then { x with queue := [.proof], inFlight := some write }
      else x
    | _ => x

/-- A station asked for an exchange: merged with one of the kind pending, else queued, and started if none is in
flight (R91, R92). -/
def asked (h : Health) (kind : ExchangeKind) (x : StationRecord) : StationRecord :=
  if kind ∈ x.queue then x else nextStarted h { x with queue := x.queue ++ [kind] }

/-- The random source after a station has come from one record to another: a PROOF that has started asks for its
nonce (R92, log 5). -/
def nonceAsked (st : Station) (x z : StationRecord) (s : State) : RandomSource :=
  if x.inFlight = none ∧ z.inFlight = some ⟨.proof none, 1⟩ then
    { s.randomSource with draws := s.randomSource.draws ++ [.nonce st] }
  else s.randomSource

/-- A page of a job is in capture: the slot, the job's entry, the job and the page (R129); no other entry holds the
job's tag (R32). -/
abbrev pageIn (n k : Nat) (j : Job) (p : Page) (s : State) : Prop :=
  s.captureUnit.boundSlot = some n ∧ s.captureUnit.page = some p ∧ s.captureUnit.boundTag = some j.tag ∧
  jobOfTag s j.tag = some (k, j) ∧ Table.find s.jobUnit.jobs k = some j ∧
  ∀ e ∈ s.jobUnit.jobs, e.2.tag = j.tag → e = (k, j)

/-- A page of a READY, ACTIVE or STOPPED job is in capture (R129). -/
abbrev capturing (n k : Nat) (j : Job) (p : Page) (s : State) : Prop :=
  pageIn n k j p s ∧ (j.state = .ready ∨ j.state = .active ∨ j.state = .stopped)

/-- The notices of a stop request that meets a job: JOB_STOPPED with the others unless it was STOPPED already
(R44). -/
def stopNotices (j : Job) (others : List Notice) : List Notice :=
  if j.state = .stopped then others else .jobStopped :: others

/-- Bands have left the lists: their descriptors are free, and so are the extents of their runs (R144). -/
def bandsFreed (bands : List Nat) (s t : State) : Prop :=
  (∀ b, descriptor t b = if b ∈ bands then none else descriptor s b) ∧
  (∀ e, e ∈ t.captureUnit.extents ↔ e ∈ s.captureUnit.extents ∧
    ∀ b ∈ bands, ∀ d, descriptor s b = some d → e < d.firstExtent ∨ d.firstExtent + d.extentCount ≤ e)

/-- A band on a slot's list belongs to a page (R148). -/
def ofPage (p : Page) (s : State) (b : Nat) : Bool := (descriptor s b).any fun d => d.page == p.number

/-- A slot without the bands of a page (R148). -/
def withoutPage (p : Page) (s : State) (x : KeySlot) : KeySlot :=
  { x with
    bands := x.bands.filter fun b => !ofPage p s b
    totalBytes := x.totalBytes -
      ((x.bands.filter (ofPage p s)).map fun b => ((descriptor s b).map (·.length)).getD 0).sum }

/-- The page in capture is dropped and its job stopped, unless it was STOPPED already: the page's bands leave the
slot's list and their descriptors and extents are freed, the stores are emptied, the port is WAITING, the
committed unit returns and nothing is charged (R43, R44, R148, R149). -/
def pageDropped (n k : Nat) (j : Job) (p : Page) (why : StopReason) (messages : List (List Byte)) (s t : State) : Prop :=
  keySlot t n = withoutPage p s (keySlot s n) ∧
  (∀ m, m ≠ n → keySlot t m = keySlot s m) ∧ t.holdUnit = { s.holdUnit with slots := t.holdUnit.slots } ∧
  bandsFreed ((keySlot s n).bands.filter (ofPage p s)) s t ∧
  t.captureUnit = { s.captureUnit with
    phase := .waiting, page := none, filling := some ⟨0, []⟩, handedOff := []
    descriptors := t.captureUnit.descriptors, extents := t.captureUnit.extents
    status := s.captureUnit.status ++ messages } ∧
  Table.find t.jobUnit.jobs k = some { j with
    committed := { j.committed with scan := j.committed.scan - 1 }, state := .stopped
    stopReason := if j.state = .stopped then j.stopReason else some why } ∧
  onlyJob k s t

/-- A page of a job that is not CLOSING, be it STOPPED, completes: the slot counts it, and the job and its owner pay 1
SCAN unit (R43, R143). -/
def pageCompleted (n k i : Nat) (j : Job) (s t : State) : Prop :=
  keySlot t n = { keySlot s n with pages := (keySlot s n).pages + 1 } ∧
  (∀ m, m ≠ n → keySlot t m = keySlot s m) ∧ t.holdUnit = { s.holdUnit with slots := t.holdUnit.slots } ∧
  Table.find t.jobUnit.jobs k = some { j with
    committed := { j.committed with scan := j.committed.scan - 1 }
    charged := { j.charged with scan := j.charged.scan + 1 }, pagesCaptured := j.pagesCaptured + 1 } ∧
  onlyJob k s t ∧ account t i = afterEvent (account s i) ((account s i).charge ⟨0, 0, 1⟩ ⟨0, 0, 1⟩) ∧
  onlyAccount i s t

/-- The port after its SCAN job has settled: unbound, its stores empty (R131, R145). -/
def portUnbound (messages : List (List Byte)) (s t : State) : Prop :=
  t.captureUnit = { s.captureUnit with
    phase := .unbound, boundTag := none, boundSlot := none, format := none, page := none
    filling := some ⟨0, []⟩, handedOff := [], descriptors := t.captureUnit.descriptors
    extents := t.captureUnit.extents, status := s.captureUnit.status ++ messages }

/-- A SCAN job settles, by a CLOSE with pages, as `j`, its owner's entry having come to `a` and its slot to `x` when
the settlement begins: the slot is held with its place on the hold list, and the units return (R49, R50, R155,
R159). -/
def scanHeld (n k i minutes : Nat) (j : Job) (a : Account) (x : KeySlot) (s t : State) : Prop :=
  (∃ before after, s.holdUnit.holdList = before ++ after ∧ t.holdUnit.holdList = before ++ [n] ++ after ∧
    (∀ m ∈ before, expiryOf s m ≤ min 4294967295 (s.holdUnit.minute + minutes)) ∧
    ∀ m, after.head? = some m → min 4294967295 (s.holdUnit.minute + minutes) < expiryOf s m) ∧
  keySlot t n = { x with
    state := .held, jobTag := none
    times := some ⟨s.holdUnit.minute, min 4294967295 (s.holdUnit.minute + minutes)⟩ } ∧
  (∀ m, m ≠ n → keySlot t m = keySlot s m) ∧
  t.holdUnit = { s.holdUnit with slots := t.holdUnit.slots, holdList := t.holdUnit.holdList } ∧
  Table.find t.jobUnit.jobs k = some { j with state := .settled, owner := none } ∧ onlyJob k s t ∧
  account t i = afterEvent (account s i)
    { a.giveBack (j.reserved.sub j.charged) with openJobs := a.openJobs - 1 } ∧
  onlyAccount i s t

/-- A SCAN job settles by ABORT, or without a page, as `j`: its CAPTURING slot is erased, and the units return (R49,
R50, R137). -/
def scanDiscarded (n k i : Nat) (j : Job) (s t : State) : Prop :=
  keySlot t n = KeySlot.blank ∧ (∀ m, m ≠ n → keySlot t m = keySlot s m) ∧
  t.holdUnit = { s.holdUnit with slots := t.holdUnit.slots } ∧ bandsFreed (keySlot s n).bands s t ∧
  Table.find t.jobUnit.jobs k = some { j with state := .settled, owner := none, slot := none } ∧ onlyJob k s t ∧
  account t i = afterEvent (account s i)
    { (account s i).giveBack (j.reserved.sub j.charged) with
      openJobs := (account s i).openJobs - 1, heldScans := (account s i).heldScans - 1 } ∧
  onlyAccount i s t

/-- A page of a CLOSING job is in capture, and is all that it has committed: the settlement is near, with its slot
CAPTURING and its owner, who is not RETIRING (R43, R48). -/
abbrev closing (n k i : Nat) (j : Job) (p : Page) (s : State) : Prop :=
  pageIn n k j p s ∧ j.kind = .scan ∧ j.state = .closing ∧ j.endKind = some .close ∧ j.committed = ⟨0, 0, 1⟩ ∧
  j.slot = some n ∧ j.owner = some i ∧ (keySlot s n).state = .capturing ∧ (keySlot s n).owner = some i ∧
  (account s i).state ≠ .retiring

/-- The minutes for which a scan of a job would be held (R50). -/
def minutesHeld (i : Nat) (j : Job) (s : State) : Nat :=
  if j.holdRequest = 0 then (groupPolicy s (account s i).group).maxHoldMinutes
  else min (groupPolicy s (account s i).group).maxHoldMinutes j.holdRequest

/-- The page of a CLOSING job is dropped and the job settles: the pages before it are held without the page's bands,
and with none before it the slot is erased (R48, R50, R148). -/
def closingDropped (n k i : Nat) (j : Job) (p : Page) (messages : List (List Byte)) (others : List Notice)
    (s t : State) : Prop :=
  portUnbound messages s t ∧
  (j.pagesCaptured = 0 →
    scanDiscarded n k i { j with committed := .zero } s t ∧ raised (.jobSettled :: others) s t) ∧
  (0 < j.pagesCaptured →
    scanHeld n k i (minutesHeld i j s) { j with committed := .zero } (account s i) (withoutPage p s (keySlot s n)) s t ∧
      bandsFreed ((keySlot s n).bands.filter (ofPage p s)) s t ∧ raised (.scanHeld :: .jobSettled :: others) s t) ∧
  onlyParts [.account, .capture, .hold, .job, .notice, .retention] s t

/-- The page of a CLOSING job completes and the job settles: the page is charged and counted, and the scan held (R43,
R48, R50, R143). -/
def closingCompleted (n k i : Nat) (j : Job) (s t : State) : Prop :=
  scanHeld n k i (minutesHeld i j s)
    { j with
      committed := .zero, charged := { j.charged with scan := j.charged.scan + 1 }
      pagesCaptured := j.pagesCaptured + 1 }
    ((account s i).charge ⟨0, 0, 1⟩ ⟨0, 0, 1⟩) { keySlot s n with pages := (keySlot s n).pages + 1 } s t ∧
  portUnbound [] s t ∧ t.captureUnit.extents = s.captureUnit.extents ∧ raised [.scanHeld, .jobSettled] s t

/-- A run of free extents is the first fit: no run of the same length begins lower (R146). -/
abbrev isFirstFit (first count : Nat) (owned : List Nat) : Prop :=
  first + count ≤ 16384 ∧ (∀ e ∈ owned, e < first ∨ first + count ≤ e) ∧
  ∀ c, c < first → ∃ e ∈ owned, c ≤ e ∧ e < c + count

/-- A band is handed off: the descriptor and the run are taken, the band joins the slot's list, and its store goes
to the writer (R145, R146). -/
def bandHandedOff (n b first : Nat) (store : BandStore) (p : Page) (format : LineFormat) (s t : State) : Prop :=
  descriptor t b = some
    { page := p.number, band := p.bands + 1, lines := store.lines, length := store.lines * format.lineBytes
      firstExtent := first, extentCount := (store.lines * format.lineBytes + 65535) / 65536, tag := none } ∧
  (∀ b', b' ≠ b → descriptor t b' = descriptor s b') ∧
  (∀ e, e ∈ t.captureUnit.extents ↔ e ∈ s.captureUnit.extents ∨
    (first ≤ e ∧ e < first + (store.lines * format.lineBytes + 65535) / 65536)) ∧
  t.captureUnit.handedOff = s.captureUnit.handedOff ++ [⟨b, store.bytes⟩] ∧
  t.captureUnit.filling = (if s.captureUnit.handedOff = [] then some ⟨0, []⟩ else none) ∧
  keySlot t n = { keySlot s n with
    bands := (keySlot s n).bands ++ [b]
    totalBytes := (keySlot s n).totalBytes + store.lines * format.lineBytes } ∧
  (∀ m, m ≠ n → keySlot t m = keySlot s m) ∧ t.holdUnit = { s.holdUnit with slots := t.holdUnit.slots }

/-- The lowest-numbered free descriptor (R146). -/
abbrev lowestDescriptor (b : Nat) (s : State) : Prop :=
  b < 4096 ∧ descriptor s b = none ∧ ∀ b', b' < b → (descriptor s b').isSome

/-- The fault unit takes a fault: it fills the empty capture, else MORE is set and the capture kept (R198, R199). -/
def faultTaken (f : FaultRecord) (s t : State) : Prop :=
  (s.noticeUnit.fault = none → t.noticeUnit.fault = some f ∧ t.noticeUnit.more = s.noticeUnit.more) ∧
  (s.noticeUnit.fault.isSome → t.noticeUnit.fault = s.noticeUnit.fault ∧ t.noticeUnit.more = true)

/-- These notices have been raised, whatever has become of the fault capture. -/
def noticed (ns : List Notice) (s t : State) : Prop :=
  (∀ n, t.noticeUnit.pending.has n = (s.noticeUnit.pending.has n || ns.contains n)) ∧
  t.noticeUnit.enabled = s.noticeUnit.enabled

/-- A HELD or RELEASING slot has been erased: its key zeroized, its fields empty, its place on the hold list, its
descriptors and its extents free, its owner's held scans less by 1 (R172). -/
def slotErased (n : Nat) (s t : State) : Prop :=
  keySlot t n = KeySlot.blank ∧ (∀ m, m ≠ n → keySlot t m = keySlot s m) ∧
  t.holdUnit.holdList = s.holdUnit.holdList.erase n ∧ t.holdUnit.minute = s.holdUnit.minute ∧
  bandsFreed (keySlot s n).bands s t ∧
  t.captureUnit = { s.captureUnit with
    descriptors := t.captureUnit.descriptors, extents := t.captureUnit.extents } ∧
  t.accountUnit = { s.accountUnit with accounts := t.accountUnit.accounts } ∧
  (∀ i, account t i = if (keySlot s n).owner = some i then
    { account s i with heldScans := (account s i).heldScans - 1 } else account s i)

/-- The streamer stands still with its buffer cleared and the FIFO empty (R164, R170). -/
def streamStopped (t : State) : Prop :=
  t.holdUnit.streamer = .idle ∧ t.holdUnit.bandBuffer = [] ∧ t.holdUnit.fifo = []

/-- An expiry walk has dealt with the slots `due`, of which `erased` were not RELEASING: these are gone with their
bands, and a RELEASING one is marked (R160, R161, R172). -/
def dueErased (due erased : List Nat) (s t : State) : Prop :=
  (∀ n, keySlot t n =
    if n ∈ erased then KeySlot.blank
    else if n ∈ due then { keySlot s n with expiryDue := true }
    else keySlot s n) ∧
  t.holdUnit.holdList = s.holdUnit.holdList.filter (fun n => !erased.contains n) ∧
  t.holdUnit.fifo = s.holdUnit.fifo ∧ t.holdUnit.streamer = s.holdUnit.streamer ∧
  t.holdUnit.bandBuffer = s.holdUnit.bandBuffer ∧
  bandsFreed (erased.flatMap fun n => (keySlot s n).bands) s t ∧
  t.captureUnit = { s.captureUnit with
    descriptors := t.captureUnit.descriptors, extents := t.captureUnit.extents } ∧
  t.accountUnit = { s.accountUnit with accounts := t.accountUnit.accounts } ∧
  (∀ i, account t i = { account s i with
    heldScans := (account s i).heldScans - (erased.filter fun n => (keySlot s n).owner == some i).length })

/-- The expiry walk has been made, and SCAN_EXPIRED raised if a slot was erased (R160). -/
def walked (due erased : List Nat) (s t : State) : Prop :=
  dueErased due erased s t ∧
  (erased ≠ [] → raised [.scanExpired] s t) ∧ (erased = [] → t.noticeUnit = s.noticeUnit) ∧
  onlyParts [.account, .capture, .hold, .notice] s t

/-- A preserve walk is writing the entry at a position: a reset leaves the part unable to tell which contents of it
stand in the image (R210). -/
def cutOff (p : WalkPosition) (s : State) : Bool :=
  s.retentionUnit.walk.any fun w => w.position == p && w.writing.isSome

/-- The RELEASING slot, if it is overdue (R177). -/
def overdueRelease (s : State) : List Nat :=
  (releasingSlot s).toList.filter fun n => (keySlot s n).expiryDue || decide (expiryOf s n ≤ s.holdUnit.minute)

/-- The slots that a warm reset erases: the CAPTURING one, and an overdue RELEASING one (R153, R177). -/
def erasedByReset (s : State) : List Nat := (capturingSlot s).toList ++ overdueRelease s

/-- The events that go on while a reset is in progress: reads of the window, what the station lines physically
do, and the supplies, causes and tests of the resets themselves (R158, R179, R204, R205). -/
def goesOnInReset : Instr → Bool
  | .streamPortRead | .presenceAppears _ | .presenceLost _ | .shortReported _ _ | .shortClears _ _
  | .lineOpenChange _ _ | .minuteTick | .retainedSupplyLost | .coldStart | .warmReset _ | .resetCauseEnds _
  | .healthTestEnd _ => true
  | _ => false

/-- The code, the defined body length and the record of a host command (08, 8.6). -/
def hostCommand : Instr → Option (Nat × Nat × Request)
  | .identify r => some (1, 0, r)
  | .addAccount r => some (16, 16, r)
  | .creditAccount r => some (17, 8, r)
  | .setAccountGroup r => some (18, 4, r)
  | .setCredential r => some (19, 36, r)
  | .suspendAccount r => some (20, 4, r)
  | .resumeAccount r => some (21, 4, r)
  | .retireAccount r => some (22, 4, r)
  | .readAccount r => some (23, 4, r)
  | .findAccount r => some (24, 4, r)
  | .clearCounters r => some (25, 4, r)
  | .setGroupPolicy r => some (26, 8, r)
  | .readGroupPolicy r => some (27, 4, r)
  | .openJob r => some (32, 20, r)
  | .extendJob r => some (33, 12, r)
  | .closeJob r => some (34, 4, r)
  | .abortJob r => some (35, 4, r)
  | .readJob r => some (36, 4, r)
  | .dismissJob r => some (37, 4, r)
  | .readSheets r => some (40, 4, r)
  | .readStation r => some (48, 4, r)
  | .recheckStation r => some (49, 4, r)
  | .setGrace r => some (50, 4, r)
  | .writeBackYield r => some (51, 4, r)
  | .setRotation r => some (52, 20, r)
  | .readRotation r => some (53, 0, r)
  | .readCapture r => some (56, 4, r)
  | .releaseScan r => some (64, 36, r)
  | .cancelRelease r => some (65, 4, r)
  | .deleteScan r => some (66, 4, r)
  | .listHeld r => some (67, 4, r)
  | .readScan r => some (68, 4, r)
  | .readNotices r => some (72, 0, r)
  | .clearNotices r => some (73, 20, r)
  | .setNoticeEnable r => some (74, 20, r)
  | .readFault r => some (76, 0, r)
  | .clearFault r => some (77, 0, r)
  | .preserveAccounts r => some (80, 0, r)
  | .enterStandby r => some (84, 0, r)
  | .exitStandby r => some (85, 0, r)
  | _ => none

/-! ### Invariants -/

/-- Numbers rise strictly, all of them at or above `low`. -/
def risingList : (low : Nat) → List Nat → Bool
  | _, [] => true
  | low, n :: rest => decide (low ≤ n) && risingList (n + 1) rest

/-- The values a write in progress took are in canonical form. -/
def Walk.canonical (w : Walk) : Bool :=
  match w.writing with
  | some (.groups t) => Table.wfDefault .default t
  | _ => true

/-- Every table, memory and map is in its one canonical form. -/
def canonical (s : State) : Prop :=
  Table.wfDefault .blank s.accountUnit.accounts = true ∧
  Table.wfDefault .default s.accountUnit.groups = true ∧
  Table.wf s.jobUnit.jobs = true ∧ Table.wf s.sheetLink.sheets = true ∧
  Table.wf s.captureUnit.descriptors = true ∧ risingList 0 s.captureUnit.extents = true ∧
  Table.wfDefault .blank s.holdUnit.slots = true ∧ Table.wf s.retentionUnit.nvAccounts = true ∧
  (∀ t ∈ s.retentionUnit.nvGroups, Table.wfDefault .default t = true) ∧
  (∀ w ∈ s.retentionUnit.walk, w.canonical = true) ∧
  Memory.wf s.imageMemory.cells = true ∧ Memory.wf s.controlPort.commandArea = true ∧
  Memory.wf s.controlPort.responseArea = true

/-- The fields of an account lie in their ranges, an unlimited account's balance and held are 0, and an ACTIVE
one has fewer than three failed attempts (R2, R3, R22). -/
def Account.inBounds (a : Account) : Prop :=
  a.balance.passes Config.maxAmount = false ∧ a.held.passes Config.maxAmount = false ∧
  a.lifetime.passes Config.maxLifetime = false ∧ a.failed ≤ 3 ∧ (a.state = .active → a.failed < 3) ∧
  (a.unlimited = true → a.balance = .zero ∧ a.held = .zero)

/-- The stored fields of an account lie in their ranges (R2, R3, R203). -/
def NvAccount.inBounds (v : NvAccount) : Prop :=
  v.lifetime.passes Config.maxLifetime = false ∧ (v.unlimited = true → v.available = .zero)

/-- The values that the image holds, or that a write took, lie in their ranges. -/
def NvValues.inBounds : NvValues → Prop
  | .groups _ => True
  | .account v => v.inBounds

/-- Every account lies in its ranges, in the table, in the image and in a write in progress. -/
def accountsInBounds (s : State) : Prop :=
  (∀ i, (account s i).inBounds) ∧ (∀ e ∈ s.retentionUnit.nvAccounts, e.2.inBounds) ∧
  (∀ w ∈ s.retentionUnit.walk, ∀ v ∈ w.writing, v.inBounds)

/-- An account number appears in at most one non-FREE entry (R1). -/
def numbersUnique (s : State) : Prop :=
  ∀ i j, (account s i).state ≠ .free → (account s j).state ≠ .free →
    (account s i).number.isSome → (account s i).number = (account s j).number → i = j

/-- The written yield less the remaining yield equals the unwritten dose (R111). -/
def yieldLaw (s : State) : Prop :=
  ∀ st, (station s st).written = (station s st).remaining + (station s st).unwritten

/-- At most one slot is RELEASING (R157), and the stream FIFO holds at most 16,384 bytes (R166). -/
def streamLaw (s : State) : Prop :=
  (∀ n m, (keySlot s n).state = .releasing → (keySlot s m).state = .releasing → n = m) ∧
  s.holdUnit.fifo.length ≤ 16384

/-- The invariants together. -/
def invariant (s : State) : Prop :=
  canonical s ∧ accountsInBounds s ∧ numbersUnique s ∧ yieldLaw s ∧ streamLaw s

/-- A station's queue holds at most two exchanges, no two of a kind (R91), and no IDENT_READ waits in it; a station that
is EMPTY, LINE_FAULT, UNREACHABLE or REJECTED, and every station in STANDBY and in a reset, has no exchange; no sheet
is in flight in STANDBY (R211); the rotation's counter has not come to 2v (R124). -/
def stationLaw (s : State) : Prop :=
  s.stationUnit.rotation.counter < 2 * s.stationUnit.rotation.interval ∧
  (standby s = true → s.sheetLink.sheets = []) ∧
  ∀ st, (station s st).queue.length ≤ 2 ∧ (station s st).queue.Nodup ∧
    ExchangeKind.identRead ∉ (station s st).queue ∧
    ((station s st).state = .empty ∨ (station s st).state = .lineFault ∨ (station s st).state = .unreachable ∨
        (station s st).state = .rejected ∨ standby s = true ∨ s.retentionUnit.reset ≠ .none →
      (station s st).inFlight = none ∧ (station s st).queue = [])

/-- The hold list holds every HELD and RELEASING slot, once each, in ascending order of expiry minute (R159). -/
def holdListLaw (s : State) : Prop :=
  s.holdUnit.holdList.Nodup ∧
  (∀ n, n ∈ s.holdUnit.holdList ↔ (keySlot s n).state = .held ∨ (keySlot s n).state = .releasing) ∧
  (∀ n ∈ s.holdUnit.holdList, (keySlot s n).times.isSome = true) ∧
  s.holdUnit.holdList.Pairwise fun n m => expiryOf s n ≤ expiryOf s m

/-! ### The agreement of the records -/

/-- The jobs that are an account's: those that are not SETTLED (R33). -/
def jobsOf (i : Nat) (s : State) : List Job := (s.jobUnit.jobs.map (·.2)).filter fun j => j.owner == some i

/-- What the sheets in flight of a tag have committed in all, and 1 SCAN unit while a page of it is in capture (R35,
R58). -/
def committedOf (tag : Nat) (s : State) : Amounts :=
  let mine := (s.sheetLink.sheets.map (·.2)).filter fun e => e.tag == tag
  ⟨(mine.map (·.committedMono)).sum, (mine.map (·.committedColour)).sum,
    if s.captureUnit.page.isSome ∧ s.captureUnit.boundTag = some tag then 1 else 0⟩

/-- No two entries hold one tag (R32); a job's committed amounts are those of its sheets and its page (R58), and with
its charged amounts stay within its reservation (R35); every sheet is of an ACTIVE, STOPPED or CLOSING PRINT job
(R58). -/
def jobsAgree (s : State) : Prop :=
  s.jobUnit.lastTag ≤ 255 ∧
  (∀ e ∈ s.jobUnit.jobs, e.1 < 32 ∧ 1 ≤ e.2.tag ∧ e.2.tag ≤ 255) ∧
  (∀ e ∈ s.jobUnit.jobs, ∀ f ∈ s.jobUnit.jobs, e.2.tag = f.2.tag → e.1 = f.1) ∧
  (∀ e ∈ s.jobUnit.jobs, e.2.committed = committedOf e.2.tag s) ∧
  (∀ e ∈ s.jobUnit.jobs, (e.2.charged.add e.2.committed).le e.2.reserved = true) ∧
  s.sheetLink.sheets.length ≤ 4 ∧
  ∀ e ∈ s.sheetLink.sheets, 0 < e.2.committedMono + e.2.committedColour ∧
    ∃ f ∈ s.jobUnit.jobs, f.2.tag = e.2.tag ∧ f.2.kind = .print ∧
      (f.2.state = .active ∨ f.2.state = .stopped ∨ f.2.state = .closing)

/-- An account's held amounts are what its jobs have reserved and not been charged (R8); its open jobs and held scans
count the jobs and the slots that are its (R9); a RETIRING account has no slot (R25). Every job that is not
SETTLED and every slot that is not EMPTY is of an account that is not FREE (R9). -/
def accountsAgree (s : State) : Prop :=
  (∀ e ∈ s.jobUnit.jobs, e.2.owner = none ↔ e.2.state = .settled) ∧
  (∀ e ∈ s.jobUnit.jobs, ∀ i ∈ e.2.owner, (account s i).state ≠ .free) ∧
  (∀ n, (keySlot s n).state = .empty → keySlot s n = .blank) ∧
  (∀ n, (keySlot s n).state ≠ .empty → (keySlot s n).owner ≠ none) ∧
  (∀ n, ∀ i ∈ (keySlot s n).owner, (account s i).state ≠ .free) ∧
  ∀ i, (account s i).openJobs = (jobsOf i s).length ∧
    (account s i).heldScans = (s.holdUnit.slots.filter fun e => e.2.owner == some i).length ∧
    ((account s i).state = .retiring → (account s i).heldScans = 0) ∧
    ((account s i).unlimited = false → ∀ c,
      (account s i).held.get c = ((jobsOf i s).map fun j => j.reserved.get c - j.charged.get c).sum)

/-- The capture port is bound to the SCAN job that is not SETTLED, and the CAPTURING slot is its bound slot (R131); a
page is in capture in RECEIVING and FINISHING (R129); with both stores handed off there is no filling store (R145);
the job whose OPEN_JOB waits for its key is a SCAN job of an ACTIVE account, with the port unbound (R39). -/
def portAgrees (s : State) : Prop :=
  let u := s.captureUnit
  (u.boundTag = none ↔ u.phase = .unbound) ∧ (u.boundTag = none → u.boundSlot = none) ∧
  (u.page.isSome = true ↔ u.phase = .receiving ∨ u.phase = .finishing) ∧
  (u.page.isSome = true → u.boundSlot.isSome = true) ∧
  u.handedOff.length ≤ 2 ∧ (u.filling = none ↔ u.handedOff.length = 2) ∧ (u.page = none → u.handedOff = []) ∧
  (∀ tag ∈ u.boundTag, ∃ e ∈ s.jobUnit.jobs, e.2.tag = tag ∧ e.2.kind = .scan ∧ e.2.state ≠ .settled ∧
    ∀ n ∈ u.boundSlot, e.2.slot = some n ∧ (keySlot s n).state = .capturing ∧ (keySlot s n).owner = e.2.owner) ∧
  (∀ n, (keySlot s n).state = .capturing → u.boundSlot = some n) ∧
  (∀ e ∈ s.jobUnit.jobs, e.2.kind = .scan → e.2.state ≠ .settled →
    u.boundTag = some e.2.tag ∨ s.controlPort.opening = some e.2.tag) ∧
  ∀ tag ∈ s.controlPort.opening, s.controlPort.phase = .busy ∧ u.boundTag = none ∧
    ∃ e ∈ s.jobUnit.jobs, e.2.tag = tag ∧ e.2.kind = .scan ∧ ∃ i, e.2.owner = some i ∧ (account s i).state = .active

/-- Every descriptor that is not free is on the band list of exactly one slot, once; every owned extent is in the run
of exactly one of them; a slot's total bytes are the lengths of its bands (R134, R144). -/
def mapsAgree (s : State) : Prop :=
  (∀ n, (keySlot s n).bands.Nodup ∧ (∀ b ∈ (keySlot s n).bands, b < 4096 ∧ (descriptor s b).isSome = true) ∧
    (keySlot s n).totalBytes = bandBytes s (keySlot s n).bands) ∧
  (∀ n m b, b ∈ (keySlot s n).bands → b ∈ (keySlot s m).bands → n = m) ∧
  (∀ b, (descriptor s b).isSome = true → ∃ n, b ∈ (keySlot s n).bands) ∧
  (∀ e, e ∈ s.captureUnit.extents ↔
    ∃ b d, descriptor s b = some d ∧ d.firstExtent ≤ e ∧ e < d.firstExtent + d.extentCount) ∧
  (∀ b d, descriptor s b = some d → d.firstExtent + d.extentCount ≤ 16384) ∧
  ∀ b c d d' e, descriptor s b = some d → descriptor s c = some d' →
    d.firstExtent ≤ e ∧ e < d.firstExtent + d.extentCount →
    d'.firstExtent ≤ e ∧ e < d'.firstExtent + d'.extentCount → b = c

/-- The records of jobs, sheets, accounts, scans and image memory agree with one another. -/
def recordsAgree (s : State) : Prop := jobsAgree s ∧ accountsAgree s ∧ portAgrees s ∧ mapsAgree s

end Sys2Proof.Machine
end

