-- ==== Sys2Proof/Certificates/Slice0/Obligations.lean ====
section
/-! DEFINITION. The statements about the part, family by family. -/
open Sys2Proof Sys2Proof.Machine

/-! ### The step, the window and the command cycle (08) -/

/-- A step runs the command at the front of the queue on the state with the queue's rest. -/
def Obligations.StepTakesTheFrontOfTheQueue : Prop :=
  ∀ (c : Instr) (rest : List Instr) (s : State),
    s.pending = c :: rest → step s = exec c { s with pending := rest }

/-- R29, R53, R82, R108, R123, R152, R158, R176, R179, R202, R204: what a cold start from a blank image leaves. That the
image is blank and the health test has passed is the model's choice (DESIGN CHOICE, log 11), and so are the lines
without a cartridge (log 12), the empty list of stop requests (log 13), the empty queue of draws (log 5), the empty
record of outputs drawn (log 4), and that nothing is held back on the data lane (log 29). -/
def Obligations.ResetLeavesTheColdStartValues : Prop :=
  (∀ i, account State.reset i = Account.free true) ∧
  (∀ g, groupPolicy State.reset g = ⟨true, true, 4, 8, 240⟩) ∧ State.reset.accountUnit.groupsPreserved = true ∧
  State.reset.jobUnit = { jobs := [], lastTag := 0, stopRequests := [] } ∧
  State.reset.sheetLink = { sheets := [], badFrames := 0, strayReports := 0, receiver := .idle, answers := [] } ∧
  (∀ st, station State.reset st =
    { state := .empty, rejectReason := none, presence := false, condition := .normal, cartridge := none
      colour := none, remaining := 0, written := 0, unwritten := 0, toggle := false, graceAllowance := 0
      graceUsed := 0, lowRaised := false, linkErrors := 0, inFlight := none, queue := [] }) ∧
  State.reset.stationUnit.rotation.slots =
    [some .k, some .c, some .m, some .y, some .drum, none, none, none, none, none, none, none, none, none, none, none] ∧
  State.reset.stationUnit.rotation.count = 5 ∧ State.reset.stationUnit.rotation.interval = 50 ∧
  State.reset.stationUnit.rotation.pointer = 0 ∧ State.reset.stationUnit.rotation.counter = 0 ∧
  State.reset.captureUnit.phase = .unbound ∧ State.reset.captureUnit.discarded = 0 ∧
  State.reset.captureUnit.handedOff = [] ∧ State.reset.captureUnit.descriptors = [] ∧
  State.reset.captureUnit.extents = [] ∧ State.reset.captureUnit.heldBack = [] ∧
  State.reset.randomSource = { health := .healthy, draws := [], returned := [] } ∧
  (∀ st, State.reset.lines.get st = ⟨false, .normal⟩) ∧
  (∀ n, keySlot State.reset n = KeySlot.blank) ∧ State.reset.holdUnit.holdList = [] ∧
  State.reset.holdUnit.minute = 0 ∧ State.reset.holdUnit.streamer = .idle ∧
  State.reset.holdUnit.bandBuffer = [] ∧ State.reset.holdUnit.fifo = [] ∧
  State.reset.noticeUnit.pending = ⟨0, 0, 0, 0, 0⟩ ∧ State.reset.noticeUnit.enabled = ⟨0, 0, 0, 0, 0⟩ ∧
  State.reset.noticeUnit.fault = none ∧ State.reset.noticeUnit.more = false ∧
  State.reset.controlPort.phase = .idle ∧ State.reset.controlPort.collision = false ∧
  State.reset.controlPort.commandArea = [] ∧ State.reset.controlPort.responseArea = [] ∧
  State.reset.retentionUnit.power = .run ∧ State.reset.retentionUnit.lastReset = .cold ∧
  State.reset.retentionUnit.walk = none ∧ State.reset.pending = []

/-- R132, R179, R204, R205: while a reset is in progress no command and no message is taken on any port, and the window
reads as zeros. That the same holds while the retained supply is LOST, and that the events inside the part do
nothing meanwhile, is the model's choice (log 2). -/
def Obligations.NothingIsTakenDuringAReset : Prop :=
  ∀ s : State, down s = true →
    (∀ i, goesOnInReset i = false → exec i s = .next s) ∧
    exec .streamPortRead s = .next { s with controlPort := { s.controlPort with streamWord := 0 } } ∧
    (∀ offset, windowWord offset s = 0) ∧
    ∀ offset length, (windowRead offset length s).1 = List.replicate length 0 ∧
      (offset ≠ 264 ∨ length ≠ 4 → (windowRead offset length s).2 = s)

/-- R182: while the phase is BUSY a GO and a write to the command area are lost and set COLLISION, and nothing else
changes. -/
def Obligations.BusyPartIgnoresGoAndSetsCollision : Prop :=
  ∀ s : State, down s = false → s.controlPort.phase = .busy →
    exec .goCollision s = .next (withCollision s) ∧
    (∀ offset bytes, bytes ≠ [] → offset < 128 →
      exec (.commandAreaWrite offset bytes) s = .next (withCollision s)) ∧
    (∀ i code length r, hostCommand i = some (code, length, r) → exec i s = .next (withCollision s)) ∧
    (∀ code r, exec (.undefinedCommandCode code r) s = .next (withCollision s))

/-- R179, R181 to R184: a write to the command area is stored byte for byte; a write with GO clear, one that touches the
control/status word or the stream port in another width, and one outside the command area change nothing; a GO
takes the command that stands in the command area, as one written with its record. R179, R187, R188, R193, R213,
R214: what a read returns: the bytes of the two areas as they stand, the words of the other regions and in another
width their bytes, zeros outside the regions and where an access of another width touches the control/status word
or the stream port, which then gives no byte. -/
def Obligations.WindowTakesWritesAndGo : Prop :=
  (∀ (s : State) (offset : Nat) (bytes : List Byte),
      (ready s → bytes ≠ [] → offset + bytes.length ≤ 128 →
        ∀ i ∈ [Instr.commandAreaWrite offset bytes, .windowWrite offset bytes],
          ∃ t, exec i s = .next t ∧ Memory.readBytes t.controlPort.commandArea offset bytes.length = bytes ∧
            (∀ a, a < offset ∨ offset + bytes.length ≤ a →
              Memory.read t.controlPort.commandArea a = Memory.read s.controlPort.commandArea a) ∧
            t = { s with controlPort := { s.controlPort with commandArea := t.controlPort.commandArea } }) ∧
      (offset = 256 → bytes.length = 4 → (bytes.headD 0).getLsbD 0 = true →
        exec (.windowWrite offset bytes) s = exec .goCollision s) ∧
      (offset = 256 → bytes.length = 4 → (bytes.headD 0).getLsbD 0 = false →
        exec (.windowWrite offset bytes) s = .next s) ∧
      (¬ (offset = 256 ∧ bytes.length = 4) →
        (offset < 260 ∧ 256 < offset + bytes.length) ∨ (offset < 268 ∧ 264 < offset + bytes.length) ∨ 128 ≤ offset →
        exec (.windowWrite offset bytes) s = .next s)) ∧
  (∀ (s : State) (i : Instr) (code length : Nat) (r : Request),
      ready s → hostCommand i = some (code, length, r) → r.body.length ≤ 124 →
      exec .goCollision (storeRequest code r s) = exec i s) ∧
  (∀ (s : State) (offset length : Nat), down s = false →
      (offset + length ≤ 128 →
        windowRead offset length s = (Memory.readBytes s.controlPort.commandArea offset length, s)) ∧
      (128 ≤ offset → offset + length ≤ 256 →
        windowRead offset length s = (Memory.readBytes s.controlPort.responseArea (offset - 128) length, s)) ∧
      (¬ (offset = 256 ∧ length = 4) → ¬ (offset = 264 ∧ length = 4) →
        (offset < 260 ∧ 256 < offset + length) ∨ (offset < 268 ∧ 264 < offset + length) ∨ 368 ≤ offset →
        windowRead offset length s = (List.replicate length 0, s)) ∧
      (∃ t, exec .streamPortRead s = .next t ∧ windowRead 264 4 s = (le 4 t.controlPort.streamWord.toNat, t)) ∧
      (∀ n, 256 < offset → offset % 4 = 0 → offset ≠ 264 → n < 4 →
        windowRead (offset + n) 1 s = ([(windowWord offset s).extractLsb' (8 * n) 8], s))) ∧
  (∀ s : State, down s = false →
      (windowWord 256 s).toNat =
        2 * s.controlPort.phase.code + 8 * s.controlPort.collision.toNat + 16 * s.retentionUnit.power.code ∧
      (s.holdUnit.fifo.length ≤ 16384 → (windowWord 260 s).toNat = s.holdUnit.fifo.length) ∧
      [windowWord 272 s, windowWord 276 s, windowWord 280 s, windowWord 284 s, windowWord 288 s] =
        [s.noticeUnit.pending.account, s.noticeUnit.pending.job, s.noticeUnit.pending.sheet,
         s.noticeUnit.pending.station, s.noticeUnit.pending.scan] ∧
      [windowWord 304 s, windowWord 308 s, windowWord 312 s, windowWord 316 s, windowWord 320 s] =
        [s.noticeUnit.enabled.account, s.noticeUnit.enabled.job, s.noticeUnit.enabled.sheet,
         s.noticeUnit.enabled.station, s.noticeUnit.enabled.scan] ∧
      (windowWord 336 s).toNat =
        (s.noticeUnit.groupSummary .account).toNat + 2 * (s.noticeUnit.groupSummary .job).toNat +
        4 * (s.noticeUnit.groupSummary .sheet).toNat + 8 * (s.noticeUnit.groupSummary .station).toNat +
        16 * (s.noticeUnit.groupSummary .scan).toNat + 256 * s.noticeUnit.overall.toNat ∧
      (s.noticeUnit.fault = none →
        (windowWord 352 s).toNat = 2 * s.noticeUnit.more.toNat ∧
        [windowWord 356 s, windowWord 360 s, windowWord 364 s] = [0, 0, 0]) ∧
      (∀ f, s.noticeUnit.fault = some f → f.minute ≤ 4294967295 → f.account.getD 0 ≤ 65535 → f.slot.getD 0 ≤ 47 →
        f.band.getD 0 ≤ 4095 →
        (windowWord 352 s).toNat = 1 + 2 * s.noticeUnit.more.toNat + 256 * f.kind.code +
          4096 * f.account.isSome.toNat + 8192 * f.slot.isSome.toNat + 16384 * f.band.isSome.toNat ∧
        (windowWord 356 s).toNat = f.minute ∧
        (windowWord 360 s).toNat = f.account.getD 0 + 65536 * f.slot.getD 0 ∧
        (windowWord 364 s).toNat = f.band.getD 0))

/-- R183: a body length that is not the defined one is refused with BAD_LENGTH, an undefined code with BAD_FIELD; so are
account number 0, tag 0, a station above 4 and a slot above 47 (R11, R36, R84, R162), and every other field out of
its range and combination that a command's rule forbids (R12, R13, R14, R15, R17, R28, R37, R40, R81, R107, R125,
R151, R163, R175, R215), in RUN and in STANDBY. A command so refused changes no record but the response area and
the phase. -/
def Obligations.ControlPortChecksCommands : Prop :=
  (∀ (s : State) (i : Instr) (code length : Nat) (r : Request),
      ready s → hostCommand i = some (code, length, r) → r.body.length ≤ 124 → r.length.toNat ≠ length →
      ∃ t, exec i s = .next t ∧ answers t .badLength [] ∧ onlyParts [.control] s t) ∧
  (∀ (s : State) (code : BitVec 16) (r : Request),
      ready s → code.toNat ∉ definedCodes → r.body.length ≤ 124 →
      ∃ t, exec (.undefinedCommandCode code r) s = .next t ∧ answers t .badField [] ∧ onlyParts [.control] s t) ∧
  (∀ (s : State) (r : Request) (b : Byte) (f : Request → Instr), ready s →
      ((f ∈ [Instr.suspendAccount, .resumeAccount, .retireAccount, .readAccount, .clearCounters, .listHeld] ∧
          carries r 4 [0, 0]) ∨
        (f ∈ [Instr.closeJob, .abortJob, .readJob, .dismissJob] ∧ carries r 4 [0]) ∨
        (f ∈ [Instr.readStation, .recheckStation, .setGrace, .writeBackYield] ∧ 5 ≤ b.toNat ∧ carries r 4 [b]) ∨
        (f ∈ [Instr.cancelRelease, .deleteScan, .readScan] ∧ 48 ≤ b.toNat ∧ carries r 4 [b])) →
      ∃ t, exec (f r) s = .next t ∧ answers t .badField [] ∧ onlyParts [.control] s t) ∧
  (∀ (s : State) (r : Request) (i : Instr), ready s →
      ((i = .addAccount r ∧ ∃ (number : Nat) (group unlimited : Byte) (opening : Amounts),
          number ≤ 65535 ∧ opening.passes 16777215 = false ∧
          carries r 16 (le 2 number ++ [group, unlimited] ++ packAmounts opening) ∧
          (number = 0 ∨ 7 < group.toNat ∨ 1 < unlimited.toNat ∨ (unlimited = 1 ∧ opening ≠ .zero))) ∨
        (i = .creditAccount r ∧ ∃ (number amount : Nat) (unitClass sign : Byte),
          number ≤ 65535 ∧ carries r 8 (le 2 number ++ [unitClass, sign] ++ le 3 amount) ∧
          (number = 0 ∨ 2 < unitClass.toNat ∨ 1 < sign.toNat)) ∨
        (i = .setAccountGroup r ∧ ∃ (number : Nat) (group : Byte), number ≤ 65535 ∧
          carries r 4 (le 2 number ++ [group]) ∧ (number = 0 ∨ 7 < group.toNat)) ∨
        (i = .setCredential r ∧ ∃ (number : Nat) (length : Byte), number ≤ 65535 ∧
          carries r 36 (le 2 number ++ [length]) ∧
          (number = 0 ∨ (1 ≤ length.toNat ∧ length.toNat ≤ 7) ∨ 32 < length.toNat)) ∨
        (i = .findAccount r ∧ ∃ (mode : Byte) (key : Nat), key ≤ 65535 ∧ carries r 4 ([mode] ++ le 2 key) ∧
          (1 < mode.toNat ∨ (mode = 0 ∧ key = 0) ∨ (mode = 1 ∧ 511 < key))) ∨
        (i = .setGroupPolicy r ∧ ∃ (group colour scan jobs held : Byte) (minutes : Nat), minutes ≤ 65535 ∧
          carries r 8 ([group, colour, scan, jobs, held] ++ le 2 minutes) ∧
          (7 < group.toNat ∨ 1 < colour.toNat ∨ 1 < scan.toNat ∨ jobs = 0 ∨ 8 < jobs.toNat ∨ 48 < held.toNat ∨
            minutes = 0 ∨ 1440 < minutes)) ∨
        (i = .readGroupPolicy r ∧ ∃ group : Byte, carries r 4 [group] ∧ 7 < group.toNat) ∨
        (i = .openJob r ∧ ∃ (number hold pixels : Nat) (kind bytes : Byte) (request : Amounts),
          number ≤ 65535 ∧ hold ≤ 65535 ∧ pixels ≤ 65535 ∧ request.passes 16777215 = false ∧
          carries r 20 (le 2 number ++ [kind] ++ packAmounts request ++ le 2 hold ++ le 2 pixels ++ [bytes]) ∧
          (number = 0 ∨ 1 < kind.toNat ∨ request = .zero ∨ 1440 < hold ∨
            (kind = 0 ∧ (0 < request.scan ∨ 0 < hold ∨ 0 < pixels ∨ bytes ≠ 0)) ∨
            (kind = 1 ∧ (0 < request.mono ∨ 0 < request.colour ∨ pixels < 16 ∨ 7680 < pixels ∨
              (bytes ≠ 1 ∧ bytes ≠ 3))))) ∨
        (i = .extendJob r ∧ ∃ (tag : Byte) (request : Amounts), request.passes 16777215 = false ∧
          carries r 12 ([tag] ++ packAmounts request) ∧ (tag = 0 ∨ request = .zero)) ∨
        ((i = .readSheets r ∨ i = .readCapture r) ∧ ∃ clear : Byte, carries r 4 [clear] ∧ 1 < clear.toNat) ∨
        (i = .readStation r ∧ ∃ st clear : Byte, carries r 4 [st, clear] ∧ 1 < clear.toNat) ∨
        (i = .setRotation r ∧ ∃ (count v : Byte) (codes : List Byte), codes.length = 16 ∧
          carries r 20 ([count, v] ++ codes) ∧
          (count = 0 ∨ 16 < count.toNat ∨ v = 0 ∨ ∃ c ∈ codes, 5 < c.toNat)) ∨
        (i = .releaseScan r ∧ ∃ slot length : Byte, carries r 36 [slot, length] ∧
          (47 < slot.toNat ∨ length.toNat < 8 ∨ 32 < length.toNat)) ∨
        (i = .readScan r ∧ ∃ (slot mode : Byte) (position : Nat), position ≤ 65535 ∧
          carries r 4 ([slot, mode] ++ le 2 position) ∧ (47 < slot.toNat ∨ 1 < mode.toNat ∨ 4095 < position)) ∨
        ((i = .clearNotices r ∨ i = .setNoticeEnable r) ∧ ∃ (named : PerGroup) (b : Nat),
          carries r 20 (packNotices named) ∧
          ((3 ≤ b ∧ (named.account.getLsbD b = true ∨ named.job.getLsbD b = true ∨ named.sheet.getLsbD b = true)) ∨
            (4 ≤ b ∧ named.station.getLsbD b = true) ∨ (6 ≤ b ∧ named.scan.getLsbD b = true)))) →
      ∃ t, exec i s = .next t ∧ answers t .badField [] ∧ onlyParts [.control] s t)

/-- R16, R17, R28, R51, R81, R107, R126, R151, R174, R175, R189, R195, R201: the reading commands answer in RUN and,
but for FIND_ACCOUNT, in STANDBY, and change nothing but the counts that a clear flag clears. The layouts are
DEDUCED (log 18, log 19). -/
def Obligations.ReadsChangeNothingButClearedCounts : Prop :=
  (∀ (s : State) (r : Request), ready s → carries r 0 [] →
    (∃ t, exec (.identify r) s = .next t ∧ onlyParts [.control] s t ∧
      answers t .ok
        ([0x47, 0x6F, 0x6E, 0x64, 0x61, 0x72, 0x61, 0, 47, 1] ++
          [512, 8, 32, 4, 5, 48, 4096, 16384, 65536, 16384, 128, 128].flatMap (le 4) ++
          [byteOf s.retentionUnit.lastReset.code, byteOf s.retentionUnit.power.code] ++ le 4 s.holdUnit.minute)) ∧
    (∃ t, exec (.readNotices r) s = .next t ∧ onlyParts [.control] s t ∧
      answers t .ok
        (packNotices s.noticeUnit.pending ++ packNotices s.noticeUnit.enabled ++
          flag (s.noticeUnit.groupSummary .account) ++ flag (s.noticeUnit.groupSummary .job) ++
          flag (s.noticeUnit.groupSummary .sheet) ++ flag (s.noticeUnit.groupSummary .station) ++
          flag (s.noticeUnit.groupSummary .scan) ++ flag s.noticeUnit.overall ++
          flag s.noticeUnit.fault.isSome ++ flag s.noticeUnit.more)) ∧
    (∃ t, exec (.readFault r) s = .next t ∧ onlyParts [.control] s t ∧ answers t .ok (pad4 (faultBody s.noticeUnit))) ∧
    (s.stationUnit.rotation.slots.length = 16 →
      ∃ t, exec (.readRotation r) s = .next t ∧ onlyParts [.control] s t ∧
        answers t .ok (pad4 (rotationBody s.stationUnit.rotation)))) ∧
  (∀ (s : State) (r : Request) (number i : Nat), ready s → 1 ≤ number → number ≤ 65535 →
    accountIndex s number = some i →
    (carries r 4 (le 2 number) →
      (∃ t, exec (.readAccount r) s = .next t ∧ onlyParts [.control] s t ∧
        answers t .ok (pad4 (accountBody i (account s i)))) ∧
      ((heldOf i s).length ≤ 48 →
        ∃ t, exec (.listHeld r) s = .next t ∧ onlyParts [.control] s t ∧
          answers t .ok (pad4 (byteOf (heldOf i s).length ::
            ((heldOf i s).map byteOf ++ List.replicate (48 - (heldOf i s).length) 0))))) ∧
    (carries r 4 ([0] ++ le 2 number) → standby s = false →
      ∃ t, exec (.findAccount r) s = .next t ∧ onlyParts [.control] s t ∧
        answers t .ok (le 2 i ++ [byteOf (account s i).state.code, 0, 0, 0, 0, 0]))) ∧
  (∀ (s : State) (r : Request) (low i : Nat), ready s → carries r 4 ([1] ++ le 2 low) → low < 512 →
    Table.wfDefault .blank s.accountUnit.accounts = true →
    (standby s = true →
      ∃ t, exec (.findAccount r) s = .next t ∧ answers t .standby [] ∧ onlyParts [.control] s t) ∧
    (standby s = false → low ≤ i → (account s i).state ≠ .free →
      (∀ j, low ≤ j → j < i → (account s j).state = .free) →
      ∃ t, exec (.findAccount r) s = .next t ∧ onlyParts [.control] s t ∧
        answers t .ok (le 2 i ++ le 2 ((account s i).number.getD 0) ++ [byteOf (account s i).state.code, 0, 0, 0])) ∧
    (standby s = false → (∀ j, low ≤ j → (account s j).state = .free) →
      ∃ t, exec (.findAccount r) s = .next t ∧ answers t .noEntry [] ∧ onlyParts [.control] s t)) ∧
  (∀ (s : State) (r : Request) (g : Nat), ready s → carries r 4 [byteOf g] → g < 8 →
    ∃ t, exec (.readGroupPolicy r) s = .next t ∧ onlyParts [.control] s t ∧
      answers t .ok (pad4 (groupPolicyBody (groupPolicy s g) s.accountUnit.groupsPreserved))) ∧
  (∀ (s : State) (r : Request) (tag k : Nat) (j : Job), ready s → carries r 4 [byteOf tag] → 1 ≤ tag → tag ≤ 255 →
    jobOfTag s tag = some (k, j) →
    ∃ t, exec (.readJob r) s = .next t ∧ onlyParts [.control] s t ∧ answers t .ok (pad4 (jobBody j))) ∧
  (∀ (s : State) (r : Request) (clear : Bool), ready s → carries r 4 (flag clear) →
    (s.sheetLink.sheets.length ≤ 4 →
      ∃ t, exec (.readSheets r) s = .next t ∧ onlyParts [.control, .sheet] s t ∧
        answers t .ok (pad4 (sheetsBody s.sheetLink)) ∧
        t.sheetLink = if clear then { s.sheetLink with badFrames := 0, strayReports := 0 } else s.sheetLink) ∧
    (∃ t, exec (.readCapture r) s = .next t ∧ onlyParts [.control, .capture] s t ∧
      answers t .ok (pad4 (captureBody s.captureUnit s.randomSource.health)) ∧
      t.captureUnit = if clear then { s.captureUnit with discarded := 0 } else s.captureUnit)) ∧
  (∀ (s : State) (r : Request) (st : Station) (clear : Bool), ready s →
    carries r 4 ([byteOf (stationCode st)] ++ flag clear) → (station s st).queue.length ≤ 2 →
    ∃ t, exec (.readStation r) s = .next t ∧ onlyParts [.control, .station] s t ∧
      answers t .ok (pad4 (stationBody (station s st))) ∧
      stationBecomes st (if clear then { station s st with linkErrors := 0 } else station s st) s t) ∧
  (∀ (s : State) (r : Request) (n position : Nat), ready s → n < 48 → position < 4096 →
    (carries r 4 ([byteOf n, 0] ++ le 2 position) →
      ∃ t, exec (.readScan r) s = .next t ∧ onlyParts [.control] s t ∧
        answers t .ok (pad4 (summaryBody (keySlot s n) ((keySlot s n).owner.bind fun i => (account s i).number)
          s.holdUnit.streamer))) ∧
    (∀ b d, carries r 4 ([byteOf n, 1] ++ le 2 position) → (keySlot s n).bands[position]? = some b →
      descriptor s b = some d →
      ∃ t, exec (.readScan r) s = .next t ∧ onlyParts [.control] s t ∧ answers t .ok (pad4 (bandBody d))) ∧
    (carries r 4 ([byteOf n, 1] ++ le 2 position) → (keySlot s n).bands.length ≤ position →
      ∃ t, exec (.readScan r) s = .next t ∧ answers t .noEntry [] ∧ onlyParts [.control] s t))

/-! ### Accounts and groups (01) -/

/-- R12. ADD_ACCOUNT takes the lowest-indexed FREE entry and fills it with the fields given. It is refused with STANDBY
in STANDBY (R11), then with EXISTS where a non-FREE entry, be it RETIRING, holds the number, then with TABLE_FULL
where no entry is FREE, and changes no record. -/
def Obligations.AddAccountFillsLowestFreeEntry : Prop :=
  (∀ (s : State) (r : Request) (number group i : Nat) (unlimited : Bool) (opening : Amounts),
    readyInRun s →
    carries r 16 (le 2 number ++ [byteOf group] ++ flag unlimited ++ packAmounts opening) →
    1 ≤ number → number ≤ 65535 → group < 8 → opening.passes 16777215 = false →
    (unlimited = true → opening = .zero) → accountIndex s number = none →
    i < 512 → (account s i).state = .free → (∀ j, j < i → (account s j).state ≠ .free) →
    ∃ t, exec (.addAccount r) s = .next t ∧ answers t .ok (pad4 (le 2 i)) ∧
      account t i =
        { state := .active, number := some number, group := group, unlimited := unlimited, balance := opening
          held := .zero, lifetime := .zero, countSaturated := false, creditClipped := false, digest := none
          failed := 0, openJobs := 0, heldScans := 0, preserved := false } ∧
      onlyAccount i s t ∧ onlyParts [.control, .account, .retention] s t) ∧
  ∀ (s : State) (r : Request) (number group : Nat) (unlimited : Bool) (opening : Amounts) (why : Response),
    ready s → carries r 16 (le 2 number ++ [byteOf group] ++ flag unlimited ++ packAmounts opening) →
    1 ≤ number → number ≤ 65535 → group < 8 → opening.passes 16777215 = false →
    (unlimited = true → opening = .zero) →
    ((standby s = true ∧ why = .standby) ∨
      (standby s = false ∧ (∃ j, (account s j).state ≠ .free ∧ (account s j).number = some number) ∧ why = .exists) ∨
      (standby s = false ∧ accountIndex s number = none ∧ (∀ j, j < 512 → (account s j).state ≠ .free) ∧
        why = .tableFull)) →
    ∃ t, exec (.addAccount r) s = .next t ∧ answers t why [] ∧ onlyParts [.control] s t

/-- R13. CREDIT_ACCOUNT adds to one balance, stopping at the limit, or subtracts from it; it is refused with BAD_STATE
for a RETIRING account, else with NOT_ALLOWED for an unlimited one, else with NO_BALANCE for a debit of more than the
balance. -/
def Obligations.CreditAccountMovesOneBalance : Prop :=
  ∀ (s : State) (r : Request) (number amount i : Nat) (c : UnitClass) (debit : Bool),
    readyInRun s →
    carries r 8 (le 2 number ++ [classByte c] ++ flag debit ++ le 3 amount) →
    1 ≤ number → number ≤ 65535 → amount ≤ 16777215 → accountIndex s number = some i →
    ((account s i).state = .retiring →
      ∃ t, exec (.creditAccount r) s = .next t ∧ answers t .badState [] ∧ onlyParts [.control] s t) ∧
    ((account s i).state ≠ .retiring → (account s i).unlimited = true →
      ∃ t, exec (.creditAccount r) s = .next t ∧ answers t .notAllowed [] ∧ onlyParts [.control] s t) ∧
    ((account s i).state ≠ .retiring → (account s i).unlimited = false → (account s i).inBounds →
    (debit = false →
      ∃ t, exec (.creditAccount r) s = .next t ∧
        answers t .ok (le 3 (min 16777215 ((account s i).balance.get c + amount)) ++
          flag (decide (16777215 < (account s i).balance.get c + amount))) ∧
        accountBecomes i { account s i with
          balance := (account s i).balance.set c (min 16777215 ((account s i).balance.get c + amount))
          creditClipped := (account s i).creditClipped ||
            decide (16777215 < (account s i).balance.get c + amount) } s t) ∧
    (debit = true → amount ≤ (account s i).balance.get c →
      ∃ t, exec (.creditAccount r) s = .next t ∧
        answers t .ok (le 3 ((account s i).balance.get c - amount) ++ [0]) ∧
        accountBecomes i { account s i with
          balance := (account s i).balance.set c ((account s i).balance.get c - amount) } s t) ∧
    (debit = true → (account s i).balance.get c < amount →
      ∃ t, exec (.creditAccount r) s = .next t ∧ answers t .noBalance [] ∧ onlyParts [.control] s t))

/-- R14, R15, R18, R21: the commands that replace fields of one account, each refused with BAD_STATE if the account is
RETIRING, and RESUME_ACCOUNT if it is ACTIVE; R11: a command of the account chapter that names an account is refused
with STANDBY in STANDBY, then with NO_ENTRY where no non-FREE entry holds the number. A refused command changes no
record. -/
def Obligations.AccountFieldCommandsReplaceTheirFields : Prop :=
  (∀ (s : State) (number i : Nat),
      readyInRun s → 1 ≤ number → number ≤ 65535 → accountIndex s number = some i →
      (account s i).state ≠ .retiring →
      (∀ (r : Request) (group : Nat), group < 8 → carries r 4 (le 2 number ++ [byteOf group]) →
        ∃ t, exec (.setAccountGroup r) s = .next t ∧ answers t .ok [] ∧
          accountBecomes i { account s i with group := group } s t) ∧
      (∀ (r : Request) (credential : List Byte), 8 ≤ credential.length → credential.length ≤ 32 →
        carries r 36 (le 2 number ++ [byteOf credential.length] ++ credential) →
        ∃ t, exec (.setCredential r) s = .next t ∧ answers t .ok [] ∧
          accountBecomes i { account s i with digest := some ⟨credential⟩, failed := 0 } s t) ∧
      (∀ r : Request, carries r 36 (le 2 number ++ [0]) →
        ∃ t, exec (.setCredential r) s = .next t ∧ answers t .ok [] ∧
          accountBecomes i { account s i with digest := none, failed := 0 } s t) ∧
      (∀ r : Request, carries r 4 (le 2 number) → (account s i).state ≠ .active → (account s i).state ≠ .free →
        ∃ t, exec (.resumeAccount r) s = .next t ∧ answers t .ok [] ∧
          accountBecomes i { account s i with state := .active, failed := 0 } s t) ∧
      (∀ r : Request, carries r 4 (le 2 number) →
        ∃ t, exec (.clearCounters r) s = .next t ∧
          answers t .ok (pad4 (le 4 (account s i).lifetime.mono ++ le 4 (account s i).lifetime.colour ++
            le 4 (account s i).lifetime.scan ++ flag (account s i).countSaturated ++
            flag (account s i).creditClipped)) ∧
          accountBecomes i { account s i with lifetime := .zero, countSaturated := false, creditClipped := false } s t)) ∧
  (∀ (s : State) (r : Request) (number : Nat) (c : Instr), ready s → 1 ≤ number → number ≤ 65535 →
      ((c ∈ [.suspendAccount r, .resumeAccount r, .retireAccount r, .clearCounters r] ∧ carries r 4 (le 2 number)) ∨
        (c = .creditAccount r ∧ ∃ (kind : UnitClass) (debit : Bool) (amount : Nat), amount ≤ 16777215 ∧
          carries r 8 (le 2 number ++ [classByte kind] ++ flag debit ++ le 3 amount)) ∨
        (c = .setAccountGroup r ∧ ∃ group, group < 8 ∧ carries r 4 (le 2 number ++ [byteOf group])) ∨
        (c = .setCredential r ∧ ∃ length, (length = 0 ∨ (8 ≤ length ∧ length ≤ 32)) ∧
          carries r 36 (le 2 number ++ [byteOf length]))) →
      (standby s = true → ∃ t, exec c s = .next t ∧ answers t .standby [] ∧ onlyParts [.control] s t) ∧
      (standby s = false → accountIndex s number = none →
        ∃ t, exec c s = .next t ∧ answers t .noEntry [] ∧ onlyParts [.control] s t) ∧
      (∀ i, standby s = false → accountIndex s number = some i →
        (account s i).state = .retiring ∨ ((account s i).state = .active ∧ c = .resumeAccount r) →
        ∃ t, exec c s = .next t ∧ answers t .badState [] ∧ onlyParts [.control] s t))

/-- R19, R20, R169: SUSPEND_ACCOUNT makes the account SUSPENDED, issues a stop request for each unsettled job, and ends
the account's release: the slot returns to HELD, or is erased if its expiry is due. R24, R25, R26: RETIRE_ACCOUNT
answers the figures and frees the entry, or makes it RETIRING while it has open jobs, and erases the account's
slots: HELD and RELEASING ones, and a CAPTURING one, whose page in capture is dropped first; if that settles its
last job, the account is FREE. Both are refused with BAD_STATE for a RETIRING account, and SUSPEND_ACCOUNT for one that
is SUSPENDED, whichever its reason, and change no record. -/
def Obligations.SuspensionAndRetirementEndTheWork : Prop :=
  (∀ (s : State) (r : Request) (number i : Nat) (c : Instr),
      readyInRun s → carries r 4 (le 2 number) → 1 ≤ number → number ≤ 65535 → accountIndex s number = some i →
      ((c ∈ [.suspendAccount r, .retireAccount r] ∧ (account s i).state = .retiring) ∨
        (c = .suspendAccount r ∧ ∃ why, (account s i).state = .suspended why)) →
      ∃ t, exec c s = .next t ∧ answers t .badState [] ∧ onlyParts [.control] s t) ∧
  (∀ (s : State) (r : Request) (number i : Nat),
      readyInRun s → carries r 4 (le 2 number) → 1 ≤ number → number ≤ 65535 →
      accountIndex s number = some i → (account s i).state = .active →
      ((∀ n, releasingSlot s = some n → (keySlot s n).owner ≠ some i) →
        ∃ t, exec (.suspendAccount r) s = .next t ∧ answers t .ok [] ∧
          account t i = { account s i with state := .suspended .byHost, preserved := false } ∧ onlyAccount i s t ∧
          t.jobUnit = { s.jobUnit with stopRequests := s.jobUnit.stopRequests ++ stopsFor i .accountSuspended s } ∧
          onlyParts [.control, .account, .retention, .job] s t) ∧
      (∀ n, releasingSlot s = some n → (keySlot s n).owner = some i → (keySlot s n).expiryDue = false →
        ∃ t, exec (.suspendAccount r) s = .next t ∧ answers t .ok [] ∧
          account t i = { account s i with state := .suspended .byHost, preserved := false } ∧ onlyAccount i s t ∧
          t.jobUnit = { s.jobUnit with stopRequests := s.jobUnit.stopRequests ++ stopsFor i .accountSuspended s } ∧
          keySlot t n = { keySlot s n with state := .held, release := none } ∧
          (∀ m, m ≠ n → keySlot t m = keySlot s m) ∧ t.holdUnit.fifo = [] ∧ t.holdUnit.streamer = .idle ∧
          t.holdUnit.holdList = s.holdUnit.holdList ∧ raised [.releaseEnded] s t ∧
          onlyParts [.control, .account, .retention, .job, .hold, .notice] s t) ∧
      (∀ n, releasingSlot s = some n → (keySlot s n).state = .releasing → (keySlot s n).owner = some i →
        (keySlot s n).expiryDue = true →
        ∃ t, exec (.suspendAccount r) s = .next t ∧ answers t .ok [] ∧
          account t i = { account s i with
            state := .suspended .byHost, preserved := false, heldScans := (account s i).heldScans - 1 } ∧
          onlyAccount i s t ∧
          t.jobUnit = { s.jobUnit with stopRequests := s.jobUnit.stopRequests ++ stopsFor i .accountSuspended s } ∧
          keySlot t n = KeySlot.blank ∧ (∀ m, m ≠ n → keySlot t m = keySlot s m) ∧ streamStopped t ∧
          t.holdUnit.holdList = s.holdUnit.holdList.erase n ∧ bandsFreed (keySlot s n).bands s t ∧
          raised [.releaseEnded, .scanExpired] s t ∧
          onlyParts [.control, .account, .retention, .job, .capture, .hold, .notice] s t)) ∧
  (∀ (s : State) (r : Request) (number i : Nat),
      readyInRun s → carries r 4 (le 2 number) → 1 ≤ number → number ≤ 65535 →
      accountIndex s number = some i → (account s i).state ≠ .retiring → (account s i).state ≠ .free →
      slotsOwned i s = [] →
      ∃ t, exec (.retireAccount r) s = .next t ∧
        answers t .ok (pad4 (packAmounts (account s i).balance ++ packAmounts (account s i).held ++
          packLifetimes (account s i).lifetime)) ∧
        account t i = (if (account s i).openJobs = 0 then Account.free false
          else { account s i with state := .retiring, preserved := false }) ∧
        onlyAccount i s t ∧
        t.jobUnit = { s.jobUnit with stopRequests := s.jobUnit.stopRequests ++ stopsFor i .accountRetiring s } ∧
        onlyParts [.control, .account, .retention, .job] s t) ∧
  (∀ (s : State) (r : Request) (number i : Nat) (slots : List Nat),
      readyInRun s → carries r 4 (le 2 number) → 1 ≤ number → number ≤ 65535 →
      accountIndex s number = some i → (account s i).state ≠ .retiring → (account s i).state ≠ .free →
      Table.wfDefault .blank s.holdUnit.slots = true → s.holdUnit.holdList.Nodup → slotsOwned i s = slots →
      (∀ n ∈ slots, (keySlot s n).state = .held ∨ (keySlot s n).state = .releasing) →
      ∃ t, exec (.retireAccount r) s = .next t ∧
        answers t .ok (pad4 (packAmounts (account s i).balance ++ packAmounts (account s i).held ++
          packLifetimes (account s i).lifetime)) ∧
        account t i = (if (account s i).openJobs = 0 then Account.free false
          else { account s i with
            state := .retiring, preserved := false, heldScans := (account s i).heldScans - slots.length }) ∧
        onlyAccount i s t ∧
        t.jobUnit = { s.jobUnit with stopRequests := s.jobUnit.stopRequests ++ stopsFor i .accountRetiring s } ∧
        (∀ n, keySlot t n = if n ∈ slots then KeySlot.blank else keySlot s n) ∧
        t.holdUnit.holdList = s.holdUnit.holdList.filter (fun n => !slots.contains n) ∧
        bandsFreed (slots.flatMap fun n => (keySlot s n).bands) s t ∧
        ((∃ n ∈ slots, (keySlot s n).state = .releasing) → streamStopped t ∧ raised [.releaseEnded] s t) ∧
        ((∀ n ∈ slots, (keySlot s n).state = .held) →
          t.holdUnit = { s.holdUnit with slots := t.holdUnit.slots, holdList := t.holdUnit.holdList } ∧
          t.noticeUnit = s.noticeUnit) ∧
        onlyParts [.control, .account, .retention, .job, .capture, .hold, .notice] s t) ∧
  (∀ (s : State) (r : Request) (number i n k : Nat) (j : Job),
      readyInRun s → carries r 4 (le 2 number) → 1 ≤ number → number ≤ 65535 →
      accountIndex s number = some i → (account s i).state ≠ .retiring → (account s i).state ≠ .free →
      slotsOwned i s = [n] → (keySlot s n).state = .capturing → (keySlot s n).owner = some i →
      (s.captureUnit.page = none → (account s i).openJobs ≠ 0 →
        ∃ t, exec (.retireAccount r) s = .next t ∧
          account t i = { account s i with
            state := .retiring, preserved := false, heldScans := (account s i).heldScans - 1 } ∧
          onlyAccount i s t ∧
          t.jobUnit = { s.jobUnit with stopRequests := s.jobUnit.stopRequests ++ stopsFor i .accountRetiring s } ∧
          keySlot t n = KeySlot.blank ∧ (∀ m, m ≠ n → keySlot t m = keySlot s m) ∧
          t.holdUnit = { s.holdUnit with slots := t.holdUnit.slots } ∧ bandsFreed (keySlot s n).bands s t ∧
          t.captureUnit = { s.captureUnit with
            boundSlot := none, descriptors := t.captureUnit.descriptors, extents := t.captureUnit.extents } ∧
          onlyParts [.control, .account, .retention, .job, .capture, .hold] s t) ∧
      (∀ p, pageIn n k j p s → j.owner = some i → (account s i).openJobs ≠ 0 → j.state ≠ .closing →
        ∃ t, exec (.retireAccount r) s = .next t ∧
          account t i = { account s i with
            state := .retiring, preserved := false, heldScans := (account s i).heldScans - 1 } ∧
          onlyAccount i s t ∧
          Table.find t.jobUnit.jobs k = some { j with
            committed := { j.committed with scan := j.committed.scan - 1 } } ∧
          (∀ k', k' ≠ k → Table.find t.jobUnit.jobs k' = Table.find s.jobUnit.jobs k') ∧
          keySlot t n = KeySlot.blank ∧ (∀ m, m ≠ n → keySlot t m = keySlot s m) ∧
          t.holdUnit = { s.holdUnit with slots := t.holdUnit.slots } ∧ bandsFreed (keySlot s n).bands s t ∧
          t.captureUnit = { s.captureUnit with
            phase := .waiting, boundSlot := none, page := none, filling := some ⟨0, []⟩, handedOff := []
            descriptors := t.captureUnit.descriptors, extents := t.captureUnit.extents
            status := s.captureUnit.status ++ [[0x03, 1]] } ∧
          onlyParts [.control, .account, .retention, .job, .capture, .hold] s t) ∧
      (∀ p, pageIn n k j p s → j.owner = some i → (account s i).openJobs = 1 → j.kind = .scan →
        j.state = .closing → j.committed = ⟨0, 0, 1⟩ → j.slot = some n →
        ∃ t, exec (.retireAccount r) s = .next t ∧ account t i = Account.free false ∧ onlyAccount i s t ∧
          Table.find t.jobUnit.jobs k = some { j with
            state := .settled, owner := none, slot := none, committed := .zero } ∧
          (∀ k', k' ≠ k → Table.find t.jobUnit.jobs k' = Table.find s.jobUnit.jobs k') ∧
          keySlot t n = KeySlot.blank ∧ (∀ m, m ≠ n → keySlot t m = keySlot s m) ∧
          bandsFreed (keySlot s n).bands s t ∧ portUnbound [[0x03, 1]] s t ∧ raised [.jobSettled] s t ∧
          onlyParts [.control, .account, .retention, .job, .capture, .hold, .notice] s t))

/-- R28. SET_GROUP_POLICY replaces one entry, and clears the table's preserved flag if a value differs; a preserve walk
that is writing the table is then stale, and one that has left it is dirty (R207, R208). In STANDBY it is refused with
STANDBY (R11). -/
def Obligations.SetGroupPolicyReplacesOneEntry : Prop :=
  ∀ (s : State) (r : Request) (g : Nat) (p : GroupPolicy),
    ready s →
    carries r 8 ([byteOf g] ++ flag p.colourAllowed ++ flag p.scanAllowed ++
      [byteOf p.maxOpenJobs, byteOf p.maxHeldScans] ++ le 2 p.maxHoldMinutes) →
    g < 8 → 1 ≤ p.maxOpenJobs → p.maxOpenJobs ≤ 8 → p.maxHeldScans ≤ 48 → 1 ≤ p.maxHoldMinutes →
    p.maxHoldMinutes ≤ 1440 →
    (standby s = true →
      ∃ t, exec (.setGroupPolicy r) s = .next t ∧ answers t .standby [] ∧ onlyParts [.control] s t) ∧
    (standby s = false →
      ∃ t, exec (.setGroupPolicy r) s = .next t ∧ answers t .ok [] ∧ groupPolicy t g = p ∧
        (∀ h, h ≠ g → groupPolicy t h = groupPolicy s h) ∧
        t.accountUnit.groupsPreserved = (decide (groupPolicy s g = p) && s.accountUnit.groupsPreserved) ∧
        t.accountUnit.accounts = s.accountUnit.accounts ∧
        t.retentionUnit = { s.retentionUnit with
          walk := if groupPolicy s g = p then s.retentionUnit.walk
            else s.retentionUnit.walk.map Walk.groupsChanged } ∧
        onlyParts [.control, .account, .retention] s t)

/-! ### Jobs and reservations (01 1.2, 02) -/

/-- R3, R5, R6, R7: a reserve moves the smallest of the request, the balance and the room in held from balance to
held; a return moves units back, stopping at the limit; a charge spends units from held and adds to the lifetime
counts; nothing moves for an unlimited account. -/
def Obligations.BalanceRequestsMoveUnits : Prop :=
  ∀ (a : Account) (u n : Amounts) (c : UnitClass),
    (a.unlimited = true →
      a.grant u = u ∧ a.reserve u = a ∧ a.giveBack u = a ∧
      (a.charge u n).held = a.held ∧ (a.charge u n).balance = a.balance) ∧
    (a.unlimited = false →
      (a.grant u).get c = min (min (u.get c) (a.balance.get c)) (16777215 - a.held.get c) ∧
      (a.reserve (a.grant u)).balance.get c + (a.grant u).get c = a.balance.get c ∧
      (a.reserve (a.grant u)).held.get c = a.held.get c + (a.grant u).get c ∧
      (a.giveBack u).balance.get c = min 16777215 (a.balance.get c + u.get c) ∧
      (a.giveBack u).held.get c = a.held.get c - u.get c ∧
      (16777215 < a.balance.get c + u.get c → (a.giveBack u).creditClipped = true) ∧
      (a.charge u n).balance = a.balance ∧ (a.charge u n).held.get c = a.held.get c - u.get c) ∧
    (a.charge u n).lifetime.get c = min 4294967295 (a.lifetime.get c + n.get c) ∧
    (4294967295 < a.lifetime.get c + n.get c → (a.charge u n).countSaturated = true)

/-- R34: the tag assigned is the next one upward from the last, wrapping from 255 to 1, that is not held. -/
def Obligations.TagFollowsTheLastAssigned : Prop :=
  ∀ (held : Nat → Bool) (last t : Nat), last ≤ 255 → (∃ u, 1 ≤ u ∧ u ≤ 255 ∧ held u = false) →
    nextTag held 255 last = t →
    1 ≤ t ∧ t ≤ 255 ∧ held t = false ∧
    (last < t → ∀ u, last < u → u < t → held u = true) ∧
    (t ≤ last → (∀ u, last < u → u ≤ 255 → held u = true) ∧ (∀ u, 1 ≤ u → u < t → held u = true))

/-- R38, R39: an OPEN_JOB of a PRINT job that passes its checks fills the lowest empty entry, moves the grant and
answers it. That a stop request still listed for an earlier job of its tag goes is the model's choice (log 13). -/
def Obligations.OpenPrintJobFillsTheLowestEmptyEntry : Prop :=
  ∀ (s : State) (r : Request) (number i k tag : Nat) (request grant : Amounts),
    readyInRun s →
    carries r 20 (le 2 number ++ [0] ++ packAmounts request ++ le 2 0 ++ le 2 0 ++ [0]) →
    1 ≤ number → number ≤ 65535 → request.passes 16777215 = false → request.scan = 0 → request ≠ .zero →
    accountIndex s number = some i → (account s i).state = .active → faulted s = false →
    k < 32 → Table.find s.jobUnit.jobs k = none → (∀ k', k' < k → (Table.find s.jobUnit.jobs k').isSome) →
    (account s i).openJobs < (groupPolicy s (account s i).group).maxOpenJobs →
    (request.colour = 0 ∨ (groupPolicy s (account s i).group).colourAllowed = true) →
    (account s i).grant request = grant → grant ≠ .zero →
    nextTag (fun t => (jobOfTag s t).isSome) 255 s.jobUnit.lastTag = tag →
    ∃ t, exec (.openJob r) s = .next t ∧ answers t .ok (pad4 ([byteOf tag] ++ packAmounts grant ++ [0, 0])) ∧
      Table.find t.jobUnit.jobs k = some
        { tag := tag, kind := .print, owner := some i, ownerNumber := number, state := .ready
          stopReason := none, endKind := none, reserved := grant, committed := .zero, charged := .zero
          stationsUsed := .all false, delivered := 0, jammed := 0, lapsed := 0, pagesCaptured := 0
          slot := none, format := none, holdRequest := 0 } ∧
      (∀ k', k' ≠ k → Table.find t.jobUnit.jobs k' = Table.find s.jobUnit.jobs k') ∧
      t.jobUnit.lastTag = tag ∧ t.jobUnit.stopRequests = stopsKept tag s.jobUnit.stopRequests ∧
      account t i = afterEvent (account s i)
        { (account s i).reserve grant with openJobs := (account s i).openJobs + 1 } ∧
      onlyAccount i s t ∧ onlyParts [.control, .account, .job, .retention] s t

/-- R39, R133, R184: an OPEN_JOB of a SCAN job that passes its checks fills its entry and waits for its key, with the
phase BUSY and no answer yet (that the draw ends as an event of its own is log 20; a stop request listed for an
earlier job of its tag goes, log 13). R131, R135: the end of the draw
takes the lowest EMPTY slot with the key drawn, which no earlier draw returned (what was returned is the model's own
record, log 4), binds the capture port, and gives OPEN_JOB's answer; a key that an earlier draw returned comes out of
no draw. -/
def Obligations.OpenScanJobWaitsForItsKey : Prop :=
  (∀ (s : State) (r : Request) (number units hold pixels bytes i k n tag : Nat) (grant : Amounts),
      readyInRun s →
      carries r 20 (le 2 number ++ [1] ++ packAmounts ⟨0, 0, units⟩ ++ le 2 hold ++ le 2 pixels ++ [byteOf bytes]) →
      1 ≤ number → number ≤ 65535 → 1 ≤ units → units ≤ 16777215 → hold ≤ 1440 → 16 ≤ pixels → pixels ≤ 7680 →
      (bytes = 1 ∨ bytes = 3) →
      accountIndex s number = some i → (account s i).state = .active → faulted s = false →
      k < 32 → Table.find s.jobUnit.jobs k = none → (∀ k', k' < k → (Table.find s.jobUnit.jobs k').isSome) →
      (account s i).openJobs < (groupPolicy s (account s i).group).maxOpenJobs →
      (groupPolicy s (account s i).group).scanAllowed = true →
      (account s i).heldScans < (groupPolicy s (account s i).group).maxHeldScans →
      n < 48 → (keySlot s n).state = .empty → s.randomSource.health = .healthy → s.captureUnit.phase = .unbound →
      (account s i).grant ⟨0, 0, units⟩ = grant → grant ≠ .zero →
      nextTag (fun t => (jobOfTag s t).isSome) 255 s.jobUnit.lastTag = tag →
      ∃ t, exec (.openJob r) s = .next t ∧ t.controlPort.phase = .busy ∧ t.controlPort.collision = false ∧
        t.controlPort.responseArea = [] ∧ t.controlPort.opening = some tag ∧
        Table.find t.jobUnit.jobs k = some
          { tag := tag, kind := .scan, owner := some i, ownerNumber := number, state := .ready
            stopReason := none, endKind := none, reserved := grant, committed := .zero, charged := .zero
            stationsUsed := .all false, delivered := 0, jammed := 0, lapsed := 0, pagesCaptured := 0
            slot := none, format := some ⟨pixels, bytes⟩, holdRequest := hold } ∧
        (∀ k', k' ≠ k → Table.find t.jobUnit.jobs k' = Table.find s.jobUnit.jobs k') ∧
        t.jobUnit.lastTag = tag ∧ t.jobUnit.stopRequests = stopsKept tag s.jobUnit.stopRequests ∧
        account t i = afterEvent (account s i)
          { (account s i).reserve grant with openJobs := (account s i).openJobs + 1 } ∧
        onlyAccount i s t ∧
        t.randomSource = { s.randomSource with draws := s.randomSource.draws ++ [.key] } ∧
        onlyParts [.control, .account, .job, .retention, .random] s t) ∧
  (∀ (s : State) (key : BitVec 256), .key key ∈ s.randomSource.returned → exec (.keyDraw key) s = .next s) ∧
  (∀ (s : State) (key : BitVec 256) (tag i k n : Nat) (j : Job) (rest : List DrawClient),
      down s = false → s.randomSource.draws = .key :: rest → .key key ∉ s.randomSource.returned →
      s.controlPort.opening = some tag →
      jobOfTag s tag = some (k, j) → j.owner = some i →
      n < 48 → (keySlot s n).state = .empty → (∀ m, m < n → (keySlot s m).state ≠ .empty) →
      ∃ t, exec (.keyDraw key) s = .next t ∧
        response t = (1, pad4 ([byteOf j.tag] ++ packAmounts j.reserved ++ [1, byteOf n])) ∧
        t.controlPort.phase = .done ∧ t.controlPort.collision = s.controlPort.collision ∧
        t.controlPort.opening = none ∧
        keySlot t n =
          { state := .capturing, owner := some i, jobTag := some j.tag, key := key, pages := 0, bands := []
            totalBytes := 0, times := none, damaged := false, expiryDue := false, release := none } ∧
        (∀ m, m ≠ n → keySlot t m = keySlot s m) ∧ t.holdUnit = { s.holdUnit with slots := t.holdUnit.slots } ∧
        account t i = { account s i with heldScans := (account s i).heldScans + 1 } ∧ onlyAccount i s t ∧
        Table.find t.jobUnit.jobs k = some { j with slot := some n } ∧ onlyJob k s t ∧
        t.captureUnit = { s.captureUnit with
          phase := .waiting, boundTag := some j.tag, boundSlot := some n, format := j.format, page := none } ∧
        t.randomSource = { s.randomSource with draws := rest, returned := .key key :: s.randomSource.returned } ∧
        onlyParts [.control, .account, .job, .capture, .hold, .random, .retention] s t)

/-- R37, R200: the checks of OPEN_JOB in their order, and R36: in STANDBY it is refused with STANDBY before them, and a
refused command changes no job and moves no unit. -/
def Obligations.OpenJobRefusesInOrder : Prop :=
  ∀ (s : State) (r : Request) (f : OpenFields) (i : Nat),
    ready s → f.legal = true → f.request.passes 16777215 = false →
    carries r 20 (le 2 f.number ++ [byteOf f.kind.code] ++ packAmounts f.request ++ le 2 f.hold ++ le 2 f.pixels ++
      [byteOf f.bytesPerPixel]) →
    (standby s = true → ∃ t, exec (.openJob r) s = .next t ∧ answers t .standby [] ∧ onlyParts [.control] s t) ∧
    (standby s = false → accountIndex s f.number = none →
      ∃ t, exec (.openJob r) s = .next t ∧ answers t .noEntry [] ∧ onlyParts [.control] s t) ∧
    (standby s = false → accountIndex s f.number = some i →
      ∀ why,
        ((account s i).state = .suspended .lockout ∧ why = .lockedOut) ∨
        (((account s i).state = .suspended .byHost ∨ (account s i).state = .retiring) ∧ why = .badState) ∨
        ((account s i).state = .active ∧
          ((faulted s = true ∧ why = .faulted) ∨
            (faulted s = false ∧
              (((∀ k, k < 32 → (Table.find s.jobUnit.jobs k).isSome) ∧ why = .tableFull) ∨
                ((∃ k, k < 32 ∧ Table.find s.jobUnit.jobs k = none) ∧
                  ((¬ groupPermits f (account s i) (groupPolicy s (account s i).group) ∧ why = .notAllowed) ∨
                    (groupPermits f (account s i) (groupPolicy s (account s i).group) ∧
                      ((f.kind = .scan ∧ (∀ n, n < 48 → (keySlot s n).state ≠ .empty) ∧ why = .tableFull) ∨
                        (f.kind = .scan ∧ (∃ n, n < 48 ∧ (keySlot s n).state = .empty) ∧
                          ((s.randomSource.health = .unhealthy ∧ why = .keygenFailed) ∨
                            (s.randomSource.health = .healthy ∧
                              ((s.captureUnit.phase ≠ .unbound ∧ why = .scannerBusy) ∨
                                (s.captureUnit.phase = .unbound ∧ (account s i).grant f.request = .zero ∧
                                  why = .noBalance))))) ∨
                        (f.kind = .print ∧ (account s i).grant f.request = .zero ∧ why = .noBalance))))))))) →
        ∃ t, exec (.openJob r) s = .next t ∧ answers t why [] ∧ onlyParts [.control] s t)

/-- R40: EXTEND_JOB adds the grant, limited to the room in reserved, and changes no other field of the job; its checks
in their order, and R36: a refused one changes no job and moves no unit. -/
def Obligations.ExtendJobAddsItsGrant : Prop :=
  (∀ (s : State) (r : Request) (tag k i : Nat) (j : Job) (request grant : Amounts),
    readyInRun s → carries r 12 ([byteOf tag] ++ packAmounts request) → 1 ≤ tag → tag ≤ 255 →
    request.passes 16777215 = false → request ≠ .zero → jobOfTag s tag = some (k, j) → j.owner = some i →
    (j.state = .ready ∨ j.state = .active ∨ j.state = .stopped) →
    j.stopReason ≠ some .accountSuspended → j.stopReason ≠ some .accountRetiring →
    (account s i).state = .active →
    (j.kind = .print → request.scan = 0 ∧
      (request.colour = 0 ∨ (groupPolicy s (account s i).group).colourAllowed = true)) →
    (j.kind = .scan → request.mono = 0 ∧ request.colour = 0) →
    ((account s i).grant request).lesser ((Amounts.all 16777215).sub j.reserved) = grant → grant ≠ .zero →
    ∃ t, exec (.extendJob r) s = .next t ∧
      answers t .ok (pad4 (packAmounts grant ++ packAmounts (j.reserved.add grant))) ∧
      Table.find t.jobUnit.jobs k = some { j with reserved := j.reserved.add grant } ∧ onlyJob k s t ∧
      account t i = afterEvent (account s i) ((account s i).reserve grant) ∧
      onlyAccount i s t ∧ onlyParts [.control, .account, .job, .retention] s t) ∧
  (∀ (s : State) (r : Request) (tag k : Nat) (j : Job) (request : Amounts) (why : Response),
    ready s → carries r 12 ([byteOf tag] ++ packAmounts request) → 1 ≤ tag → tag ≤ 255 →
    request.passes 16777215 = false → request ≠ .zero →
    ((standby s = true ∧ why = .standby) ∨
      (standby s = false ∧ jobOfTag s tag = none ∧ why = .noEntry) ∨
      (standby s = false ∧ jobOfTag s tag = some (k, j) ∧
        (((j.state = .closing ∨ j.state = .settled) ∧ why = .badState) ∨
          ((j.state = .ready ∨ j.state = .active ∨ j.state = .stopped) ∧
            (((j.stopReason = some .accountSuspended ∨ j.stopReason = some .accountRetiring) ∧ why = .badState) ∨
              (j.stopReason ≠ some .accountSuspended ∧ j.stopReason ≠ some .accountRetiring ∧
                ∃ i, j.owner = some i ∧
                  (((account s i).state = .suspended .lockout ∧ why = .lockedOut) ∨
                    (((account s i).state = .suspended .byHost ∨ (account s i).state = .retiring) ∧
                      why = .badState) ∨
                    ((account s i).state = .active ∧
                      ((((j.kind = .print ∧ request.scan ≠ 0) ∨
                          (j.kind = .scan ∧ (request.mono ≠ 0 ∨ request.colour ≠ 0))) ∧ why = .badField) ∨
                        (j.kind = .print ∧ request.scan = 0 ∧ request.colour ≠ 0 ∧
                          (groupPolicy s (account s i).group).colourAllowed = false ∧ why = .notAllowed) ∨
                        (((j.kind = .print ∧ request.scan = 0 ∧
                              (request.colour = 0 ∨
                                (groupPolicy s (account s i).group).colourAllowed = true)) ∨
                            (j.kind = .scan ∧ request.mono = 0 ∧ request.colour = 0)) ∧
                          ((account s i).grant request).lesser ((Amounts.all 16777215).sub j.reserved) = .zero ∧
                          why = .noBalance)))))))))) →
    ∃ t, exec (.extendJob r) s = .next t ∧ answers t why [] ∧ onlyParts [.control] s t)

/-- R46, R47, R49: CLOSE_JOB or ABORT_JOB of a PRINT job with nothing committed settles it: the uncharged reservation
returns, open jobs falls by 1, the entry keeps its amounts without its owner, and JOB_SETTLED is raised; R26: the
last such job of a RETIRING account frees it; with sheets in flight the job is CLOSING, and no unit moves;
ABORT_JOB of a CLOSING job makes its end kind ABORT. CLOSE_JOB of a CLOSING job, ABORT_JOB of one that is CLOSING for
an abort, and both of a SETTLED job are refused with BAD_STATE, and with STANDBY in STANDBY (R36). That the answer's
amounts are reserved minus charged, for an unlimited account and where the return clips too, is how the model reads
R46 (DEDUCED, log 27). -/
def Obligations.EndingAPrintJob : Prop :=
  (∀ (s : State) (r : Request) (tag k i : Nat) (j : Job) (how : EndKind),
      readyInRun s → carries r 4 [byteOf tag] → 1 ≤ tag → tag ≤ 255 →
      jobOfTag s tag = some (k, j) → Table.find s.jobUnit.jobs k = some j → j.kind = .print → j.owner = some i →
      (j.state = .ready ∨ j.state = .active ∨ j.state = .stopped) → j.committed = .zero →
      ¬ ((account s i).state = .retiring ∧ (account s i).openJobs ≤ 1) →
      ∃ t, exec (match how with | .close => .closeJob r | .abort => .abortJob r) s = .next t ∧
        answers t .ok (pad4 ([4, 1] ++ packAmounts (j.reserved.sub j.charged))) ∧
        Table.find t.jobUnit.jobs k = some { j with state := .settled, endKind := some how, owner := none } ∧
        onlyJob k s t ∧
        account t i = afterEvent (account s i)
          { (account s i).giveBack (j.reserved.sub j.charged) with openJobs := (account s i).openJobs - 1 } ∧
        onlyAccount i s t ∧ raised [.jobSettled] s t ∧
        onlyParts [.control, .account, .job, .notice, .retention] s t) ∧
  (∀ (s : State) (r : Request) (tag k i : Nat) (j : Job),
      readyInRun s → carries r 4 [byteOf tag] → 1 ≤ tag → tag ≤ 255 →
      jobOfTag s tag = some (k, j) → Table.find s.jobUnit.jobs k = some j → j.kind = .print → j.owner = some i →
      (j.state = .ready ∨ j.state = .active ∨ j.state = .stopped) → j.committed = .zero →
      (account s i).state = .retiring → (account s i).openJobs = 1 →
      ∃ t, exec (.closeJob r) s = .next t ∧ account t i = Account.free false ∧ onlyAccount i s t ∧
        raised [.jobSettled] s t ∧ onlyParts [.control, .account, .job, .notice, .retention] s t) ∧
  (∀ (s : State) (r : Request) (tag k : Nat) (j : Job) (how : EndKind),
      readyInRun s → carries r 4 [byteOf tag] → 1 ≤ tag → tag ≤ 255 →
      jobOfTag s tag = some (k, j) → Table.find s.jobUnit.jobs k = some j → j.kind = .print →
      (j.state = .ready ∨ j.state = .active ∨ j.state = .stopped) → j.committed ≠ .zero →
      ∃ t, exec (match how with | .close => .closeJob r | .abort => .abortJob r) s = .next t ∧
        answers t .ok (pad4 ([3, 0] ++ List.replicate 9 0)) ∧
        Table.find t.jobUnit.jobs k = some { j with state := .closing, endKind := some how } ∧
        onlyJob k s t ∧ onlyParts [.control, .job] s t) ∧
  (∀ (s : State) (r : Request) (tag k : Nat) (j : Job),
      readyInRun s → carries r 4 [byteOf tag] → 1 ≤ tag → tag ≤ 255 →
      jobOfTag s tag = some (k, j) → Table.find s.jobUnit.jobs k = some j → j.kind = .print → j.state = .closing →
      j.endKind ≠ some .abort → j.committed ≠ .zero →
      ∃ t, exec (.abortJob r) s = .next t ∧ answers t .ok (pad4 ([3, 0] ++ List.replicate 9 0)) ∧
        Table.find t.jobUnit.jobs k = some { j with endKind := some .abort } ∧
        onlyJob k s t ∧ onlyParts [.control, .job] s t) ∧
  (∀ (s : State) (r : Request) (tag : Nat) (i : Instr) (why : Response),
      ready s → carries r 4 [byteOf tag] → 1 ≤ tag → tag ≤ 255 → (i = .closeJob r ∨ i = .abortJob r) →
      ((standby s = true ∧ why = .standby) ∨
        (standby s = false ∧ jobOfTag s tag = none ∧ why = .noEntry) ∨
        (standby s = false ∧ (∃ k j, jobOfTag s tag = some (k, j) ∧
          (j.state = .settled ∨
            (j.state = .closing ∧ (i = .closeJob r ∨ j.endKind = some .abort)))) ∧ why = .badState)) →
      ∃ t, exec i s = .next t ∧ answers t why [] ∧ onlyParts [.control] s t)

/-- R49, R50, R155, R159: CLOSE_JOB of a SCAN job with pages and nothing committed puts its slot on the hold list and
unbinds the capture port. R47, R50, R137: CLOSE_JOB of one without a page, and ABORT_JOB, erase the slot; ABORT_JOB
drops a page in capture first and sends CAPTURE_STOP. R26, R50: where retirement has erased the slot, nothing is
placed, and the settlement of the owner's last job frees the account. R48: CLOSE_JOB with a page in capture makes the
job CLOSING. The answered amounts, reserved minus charged, are how the model reads R46 (DEDUCED, log 27). -/
def Obligations.ClosingAScanJobHoldsItsScan : Prop :=
  (∀ (s : State) (r : Request) (tag k i n minutes : Nat) (j : Job),
    readyInRun s → carries r 4 [byteOf tag] → 1 ≤ tag → tag ≤ 255 →
    jobOfTag s tag = some (k, j) → Table.find s.jobUnit.jobs k = some j → j.kind = .scan → j.owner = some i →
    (j.state = .ready ∨ j.state = .active ∨ j.state = .stopped) → j.committed = .zero → 0 < j.pagesCaptured →
    j.slot = some n → (keySlot s n).state = .capturing → (account s i).state ≠ .retiring →
    minutes = (if j.holdRequest = 0 then (groupPolicy s (account s i).group).maxHoldMinutes
      else min (groupPolicy s (account s i).group).maxHoldMinutes j.holdRequest) →
    ∃ t before after, exec (.closeJob r) s = .next t ∧
      answers t .ok (pad4 ([4, 1] ++ packAmounts (j.reserved.sub j.charged))) ∧
      Table.find t.jobUnit.jobs k = some { j with state := .settled, endKind := some .close, owner := none } ∧
      onlyJob k s t ∧
      account t i = afterEvent (account s i)
        { (account s i).giveBack (j.reserved.sub j.charged) with openJobs := (account s i).openJobs - 1 } ∧
      onlyAccount i s t ∧
      keySlot t n = { keySlot s n with
        state := .held, jobTag := none
        times := some ⟨s.holdUnit.minute, min 4294967295 (s.holdUnit.minute + minutes)⟩ } ∧
      (∀ m, m ≠ n → keySlot t m = keySlot s m) ∧
      s.holdUnit.holdList = before ++ after ∧ t.holdUnit.holdList = before ++ [n] ++ after ∧
      (∀ m ∈ before, expiryOf s m ≤ min 4294967295 (s.holdUnit.minute + minutes)) ∧
      (∀ m, after.head? = some m → min 4294967295 (s.holdUnit.minute + minutes) < expiryOf s m) ∧
      t.holdUnit = { s.holdUnit with slots := t.holdUnit.slots, holdList := t.holdUnit.holdList } ∧
      t.captureUnit = { s.captureUnit with
        phase := .unbound, boundTag := none, boundSlot := none, format := none, page := none
        filling := some ⟨0, []⟩, handedOff := [] } ∧
      raised [.scanHeld, .jobSettled] s t ∧
      onlyParts [.control, .account, .job, .capture, .hold, .notice, .retention] s t) ∧
  (∀ (s : State) (r : Request) (tag k i n : Nat) (j : Job) (how : EndKind),
    readyInRun s → carries r 4 [byteOf tag] → 1 ≤ tag → tag ≤ 255 →
    jobOfTag s tag = some (k, j) → Table.find s.jobUnit.jobs k = some j → j.kind = .scan → j.owner = some i →
    j.slot = some n → (keySlot s n).state = .capturing → (keySlot s n).owner = some i →
    (account s i).state ≠ .retiring →
    ((j.state = .ready ∨ j.state = .active ∨ j.state = .stopped) → j.committed = .zero →
      (how = .close → j.pagesCaptured = 0) →
      ∃ t, exec (match how with | .close => .closeJob r | .abort => .abortJob r) s = .next t ∧
        answers t .ok (pad4 ([4, 1] ++ packAmounts (j.reserved.sub j.charged))) ∧
        scanDiscarded n k i { j with endKind := some how } s t ∧ portUnbound [] s t ∧ raised [.jobSettled] s t ∧
        onlyParts [.control, .account, .job, .capture, .hold, .notice, .retention] s t) ∧
    (∀ p, pageIn n k j p s → j.committed = ⟨0, 0, 1⟩ →
      ((j.state = .ready ∨ j.state = .active ∨ j.state = .stopped) ∨
        (j.state = .closing ∧ j.endKind ≠ some .abort)) →
      ∃ t, exec (.abortJob r) s = .next t ∧
        answers t .ok (pad4 ([4, 1] ++ packAmounts (j.reserved.sub j.charged))) ∧
        scanDiscarded n k i { j with endKind := some .abort, committed := .zero } s t ∧
        portUnbound [[0x03, 1]] s t ∧ raised [.jobSettled] s t ∧
        onlyParts [.control, .account, .job, .capture, .hold, .notice, .retention] s t)) ∧
  (∀ (s : State) (r : Request) (tag k i n : Nat) (j : Job) (how : EndKind),
    readyInRun s → carries r 4 [byteOf tag] → 1 ≤ tag → tag ≤ 255 →
    jobOfTag s tag = some (k, j) → Table.find s.jobUnit.jobs k = some j → j.kind = .scan → j.owner = some i →
    (j.state = .ready ∨ j.state = .active ∨ j.state = .stopped) → j.slot = some n →
    (j.committed ≠ .zero →
      ∃ t, exec (.closeJob r) s = .next t ∧ answers t .ok (pad4 ([3, 0] ++ List.replicate 9 0)) ∧
        Table.find t.jobUnit.jobs k = some { j with state := .closing, endKind := some .close } ∧
        onlyJob k s t ∧ onlyParts [.control, .job] s t) ∧
    (j.committed = .zero → (keySlot s n).state ≠ .capturing → (account s i).state = .retiring →
      (account s i).openJobs = 1 →
      ∃ t, exec (match how with | .close => .closeJob r | .abort => .abortJob r) s = .next t ∧
        answers t .ok (pad4 ([4, 1] ++ packAmounts (j.reserved.sub j.charged))) ∧
        Table.find t.jobUnit.jobs k = some { j with
          state := .settled, endKind := some how, owner := none, slot := none } ∧ onlyJob k s t ∧
        account t i = Account.free false ∧ onlyAccount i s t ∧ portUnbound [] s t ∧ raised [.jobSettled] s t ∧
        onlyParts [.control, .account, .job, .capture, .notice, .retention] s t))

/-- R52: DISMISS_JOB empties a SETTLED entry and frees its tag, touches no account, and is refused for any other. -/
def Obligations.DismissJobEmptiesASettledEntry : Prop :=
  ∀ (s : State) (r : Request) (tag : Nat),
    ready s → 1 ≤ tag → tag ≤ 255 →
    (r.length.toNat ≠ 4 → r.body.length ≤ 124 →
      ∃ t, exec (.dismissJob r) s = .next t ∧ answers t .badLength [] ∧ onlyParts [.control] s t) ∧
    (carries r 4 [byteOf tag] → standby s = true →
      ∃ t, exec (.dismissJob r) s = .next t ∧ answers t .standby [] ∧ onlyParts [.control] s t) ∧
    (carries r 4 [byteOf tag] → standby s = false → jobOfTag s tag = none →
      ∃ t, exec (.dismissJob r) s = .next t ∧ answers t .noEntry [] ∧ onlyParts [.control] s t) ∧
    (∀ k j, carries r 4 [byteOf tag] → standby s = false → jobOfTag s tag = some (k, j) → j.state ≠ .settled →
      ∃ t, exec (.dismissJob r) s = .next t ∧ answers t .badState [] ∧ onlyParts [.control] s t) ∧
    (∀ k j, carries r 4 [byteOf tag] → standby s = false → jobOfTag s tag = some (k, j) → j.state = .settled →
      ∃ t, exec (.dismissJob r) s = .next t ∧ answers t .ok [] ∧ Table.find t.jobUnit.jobs k = none ∧
        ((∀ k' j', (k', j') ∈ s.jobUnit.jobs → j'.tag = tag → k' = k) → jobOfTag t tag = none) ∧
        onlyJob k s t ∧ onlyParts [.control, .job] s t)

/-- R44, R20: a stop request taken makes its READY or ACTIVE job STOPPED with its reason and raises JOB_STOPPED; it
changes nothing else of any job. That it is taken as an event of its own is log 13. -/
def Obligations.StopRequestStopsARunningJob : Prop :=
  ∀ (s : State) (tag : Byte) (why : StopReason) (before after : List (Nat × StopReason)),
    down s = false → s.jobUnit.stopRequests = before ++ (tag.toNat, why) :: after →
    (∀ e ∈ before, e.1 ≠ tag.toNat) →
    ∃ t, exec (.stopRequest tag) s = .next t ∧
      t.jobUnit.stopRequests = before ++ after ∧ t.jobUnit.lastTag = s.jobUnit.lastTag ∧
      (∀ k, Table.find t.jobUnit.jobs k = (Table.find s.jobUnit.jobs k).map fun j =>
        if j.tag = tag.toNat ∧ (j.state = .ready ∨ j.state = .active) then
          { j with state := .stopped, stopReason := some why }
        else j) ∧
      ((∃ e ∈ s.jobUnit.jobs, e.2.tag = tag.toNat ∧ (e.2.state = .ready ∨ e.2.state = .active)) →
        raised [.jobStopped] s t) ∧
      ((∀ e ∈ s.jobUnit.jobs, ¬ (e.2.tag = tag.toNat ∧ (e.2.state = .ready ∨ e.2.state = .active))) →
        t.noticeUnit = s.noticeUnit) ∧
      onlyParts [.job, .notice] s t

/-! ### The sheet link (03)

An ask and a report are stated with the receiver IDLE; what they do while a frame is being gathered,
BadFrameIsCountedAndDiscarded says. -/

/-- R63: a repeated ask is answered FEED_OK with the repeat marker, whatever has become of its job, its owner and
its stations, and changes nothing; a FEED_OK that adds an entry carries the repeat marker no. -/
def Obligations.RepeatedAskIsAnsweredAgain : Prop :=
  ∀ (s : State) (a : FeedAsk), down s = false → linkIdle s → feedAskLegal a = true →
    (∀ e, sheetAt s a.sheet = some e → e.tag = a.tag.toNat →
      exec (.feedAsk a) s = .next { s with sheetLink := { s.sheetLink with
        answers := s.sheetLink.answers ++ [feedReplyFrame a.sheet a.tag .feedOk .none true]
        receiver := .idle } }) ∧
    (sheetAt s a.sheet = none →
      ∃ t reply reason, exec (.feedAsk a) s = .next t ∧
        t.sheetLink.answers = s.sheetLink.answers ++ [feedReplyFrame a.sheet a.tag reply reason false] ∧
        ((sheetAt t a.sheet).isSome ↔ reply = .feedOk))

/-- R64: an ask for a sheet in flight under another tag is answered FEED_HALT with reason CLASH; the entry and the
asking job are not touched. -/
def Obligations.ClashingAskIsHalted : Prop :=
  ∀ (s : State) (a : FeedAsk) (e : Sheet), down s = false → linkIdle s → feedAskLegal a = true →
    sheetAt s a.sheet = some e → e.tag ≠ a.tag.toNat →
    exec (.feedAsk a) s = .next { s with sheetLink := { s.sheetLink with
      answers := s.sheetLink.answers ++ [feedReplyFrame a.sheet a.tag .feedHalt .clash false]
      receiver := .idle } }

/-- R59: the need of an ask in each class is the sum over its sides of that class of the size factor. R41, R71: an ask
that passes every check adds its entry, commits its need to the job, and is answered FEED_OK. -/
def Obligations.GrantedAskEntersThePaperPath : Prop :=
  (∀ a : FeedAsk, feedAskLegal a = true →
      (askNeeds a).scan = 0 ∧
      (a.sides = 1 → a.class1 = 0 → askNeeds a = ⟨a.size.toNat, 0, 0⟩) ∧
      (a.sides = 1 → a.class1 = 1 → askNeeds a = ⟨0, a.size.toNat, 0⟩) ∧
      (a.sides = 2 → a.class1 = 0 → a.class2 = 0 → askNeeds a = ⟨2 * a.size.toNat, 0, 0⟩) ∧
      (a.sides = 2 → a.class1 = 1 → a.class2 = 1 → askNeeds a = ⟨0, 2 * a.size.toNat, 0⟩) ∧
      (a.sides = 2 → a.class1 ≠ a.class2 → askNeeds a = ⟨a.size.toNat, a.size.toNat, 0⟩)) ∧
  (∀ (s : State) (a : FeedAsk) (k i : Nat) (j : Job), down s = false → linkIdle s → feedAskLegal a = true →
      sheetAt s a.sheet = none → jobOfTag s a.tag.toNat = some (k, j) → (j.state = .ready ∨ j.state = .active) →
      j.kind = .print → j.owner = some i → (account s i).state = .active → standby s = false →
      s.sheetLink.sheets.length < 4 →
      (∀ st, (stationsOf a.mask).get st = true →
        (station s st).state = .genuine ∨ (station s st).state = .rechecking ∨ (station s st).state = .grace) →
      (askNeeds a).mono ≤ j.reserved.mono - j.charged.mono - j.committed.mono →
      (askNeeds a).colour ≤ j.reserved.colour - j.charged.colour - j.committed.colour →
      ((askNeeds a).colour = 0 ∨ (groupPolicy s (account s i).group).colourAllowed = true) →
      ∃ t, exec (.feedAsk a) s = .next t ∧
        sheetAt t a.sheet = some
          { tag := a.tag.toNat, sides := a.sides.toNat, size := a.size.toNat
            class1 := if a.class1 = 1 then .colour else .mono
            class2 := if a.sides = 2 then some (if a.class2 = 1 then .colour else .mono) else none
            mask := stationsOf a.mask, committedMono := (askNeeds a).mono, committedColour := (askNeeds a).colour
            seconds := 0 } ∧
        (∀ n : BitVec 16, n ≠ a.sheet → sheetAt t n = sheetAt s n) ∧
        t.sheetLink = { s.sheetLink with
          sheets := t.sheetLink.sheets
          answers := s.sheetLink.answers ++ [feedReplyFrame a.sheet a.tag .feedOk .none false]
          receiver := .idle } ∧
        Table.find t.jobUnit.jobs k = some
          { j with
            state := .active
            committed := j.committed.add (askNeeds a)
            stationsUsed := PerStation.map2 (· || ·) j.stationsUsed (stationsOf a.mask) } ∧
        onlyJob k s t ∧ onlyParts [.sheet, .job] s t)

/-- R62, R65 to R70: the checks of a FEED_ASK in their order, each with its reply, its reason and what it changes. -/
def Obligations.RefusedAskGivesTheFirstReason : Prop :=
  ∀ (s : State) (a : FeedAsk) (k i : Nat) (j : Job), down s = false → linkIdle s → feedAskLegal a = true →
    sheetAt s a.sheet = none →
    (jobOfTag s a.tag.toNat = none →
      exec (.feedAsk a) s = .next (sendAnswer (feedReplyFrame a.sheet a.tag .feedHalt .noJob false) s)) ∧
    (jobOfTag s a.tag.toNat = some (k, j) → (j.state = .settled ∨ j.state = .closing ∨ j.kind = .scan) →
      exec (.feedAsk a) s = .next (sendAnswer (feedReplyFrame a.sheet a.tag .feedHalt .noJob false) s)) ∧
    (jobOfTag s a.tag.toNat = some (k, j) → j.kind = .print → j.state = .stopped →
      exec (.feedAsk a) s = .next (sendAnswer (feedReplyFrame a.sheet a.tag .feedHalt .stopped false) s)) ∧
    (jobOfTag s a.tag.toNat = some (k, j) → Table.find s.jobUnit.jobs k = some j → j.kind = .print →
      (j.state = .ready ∨ j.state = .active) → j.owner = some i →
      (∀ why, ((∃ w, (account s i).state = .suspended w) ∧ why = StopReason.accountSuspended) ∨
          ((account s i).state = .retiring ∧ why = .accountRetiring) →
        ∃ t, exec (.feedAsk a) s = .next t ∧
          t.sheetLink = { s.sheetLink with
            answers := s.sheetLink.answers ++ [feedReplyFrame a.sheet a.tag .feedHalt .account false]
            receiver := .idle } ∧
          Table.find t.jobUnit.jobs k = some { j with state := .stopped, stopReason := some why } ∧
          (∀ k' j', Table.find s.jobUnit.jobs k' = some j' → j'.tag ≠ a.tag.toNat →
            Table.find t.jobUnit.jobs k' = some j') ∧
          t.jobUnit = { s.jobUnit with jobs := t.jobUnit.jobs } ∧
          raised [.jobStopped] s t ∧ onlyParts [.sheet, .job, .notice] s t) ∧
      ((account s i).state = .active →
        ((∃ st, (stationsOf a.mask).get st = true ∧ (station s st).state.lost = true) →
          exec (.feedAsk a) s = .next (sendAnswer (feedReplyFrame a.sheet a.tag .feedHalt .station false) s)) ∧
        ((∀ st, (stationsOf a.mask).get st = true → (station s st).state.lost = false) →
          (standby s = true →
            exec (.feedAsk a) s = .next (sendAnswer (feedReplyFrame a.sheet a.tag .feedWait .standby false) s)) ∧
          (standby s = false → 4 ≤ s.sheetLink.sheets.length →
            exec (.feedAsk a) s = .next (sendAnswer (feedReplyFrame a.sheet a.tag .feedWait .pathFull false) s)) ∧
          (standby s = false → s.sheetLink.sheets.length < 4 →
            (∃ st, (stationsOf a.mask).get st = true ∧
              ((station s st).state = .empty ∨ (station s st).state = .probing ∨
                (station s st).state = .challenging)) →
            exec (.feedAsk a) s = .next (sendAnswer (feedReplyFrame a.sheet a.tag .feedWait .stationBusy false) s)) ∧
          (standby s = false → s.sheetLink.sheets.length < 4 →
            (∀ st, (stationsOf a.mask).get st = true →
              (station s st).state = .genuine ∨ (station s st).state = .rechecking ∨
                (station s st).state = .grace) →
            ((j.reserved.mono - j.charged.mono - j.committed.mono < (askNeeds a).mono ∨
                j.reserved.colour - j.charged.colour - j.committed.colour < (askNeeds a).colour) →
              exec (.feedAsk a) s = .next
                (sendAnswer (feedReplyFrame a.sheet a.tag .feedLimit .spent false) (raise .jobLimit s))) ∧
            ((askNeeds a).mono ≤ j.reserved.mono - j.charged.mono - j.committed.mono →
              (askNeeds a).colour ≤ j.reserved.colour - j.charged.colour - j.committed.colour →
              0 < (askNeeds a).colour → (groupPolicy s (account s i).group).colourAllowed = false →
              exec (.feedAsk a) s = .next
                (sendAnswer (feedReplyFrame a.sheet a.tag .feedHalt .notAllowed false) s))))))

/-- R42, R74, R75, R80: a DELIVERED that finds its sheet, its doses 0, charges the sheet, removes the entry, counts it,
and is acknowledged; R77: a JAMMED with the imaged flag no returns the units to the job and charges and meters
nothing; R26, R42, R49: a resolution, by DELIVERED or by JAMMED whether imaged or not, that leaves a CLOSING PRINT job
with nothing committed settles it, and the last open job of a RETIRING owner frees it. With doses a
DELIVERED does the same to job, account and table, but that a station lost by its doses then stops the jobs that
have used it (R45, R106; what the doses do to the stations is DoseIsMeteredAgainstTheCartridge). -/
def Obligations.ReportResolvesItsSheet : Prop :=
  (∀ (s : State) (r : SheetReport) (e : Sheet) (k i : Nat) (j : Job), down s = false → linkIdle s → reportLegal r = true →
      sheetAt s r.sheet = some e → e.tag = r.tag.toNat →
      (∀ st, (r.doses1.get st).toNat = 0 ∧ (e.sides = 2 → (r.doses2.get st).toNat = 0)) →
      jobOfTag s e.tag = some (k, j) → j.owner = some i →
      ¬ (j.state = .closing ∧ j.committed.sub e.amounts = .zero) →
      s.stationUnit.rotation.counter + 1 < 2 * s.stationUnit.rotation.interval →
      ∃ t, exec (.delivered r) s = .next t ∧
        Table.find t.jobUnit.jobs k = some
          { j with
            committed := j.committed.sub ⟨e.committedMono, e.committedColour, 0⟩
            charged := j.charged.add ⟨e.committedMono, e.committedColour, 0⟩
            delivered := min 16777215 (j.delivered + 1) } ∧
        onlyJob k s t ∧
        account t i = afterEvent (account s i)
          ((account s i).charge ⟨e.committedMono, e.committedColour, 0⟩ e.sideCounts) ∧
        onlyAccount i s t ∧
        sheetAt t r.sheet = none ∧ (∀ n : BitVec 16, n ≠ r.sheet → sheetAt t n = sheetAt s n) ∧
        t.sheetLink = { s.sheetLink with
          sheets := t.sheetLink.sheets
          answers := s.sheetLink.answers ++ [reportAckFrame r.sheet r.tag false], receiver := .idle } ∧
        t.stationUnit = { s.stationUnit with
          rotation := { s.stationUnit.rotation with counter := s.stationUnit.rotation.counter + 1 } } ∧
        onlyParts [.account, .job, .sheet, .station, .retention] s t) ∧
  (∀ (s : State) (r : SheetReport) (e : Sheet) (k : Nat) (j : Job), down s = false → linkIdle s → reportLegal r = true →
      sheetAt s r.sheet = some e → e.tag = r.tag.toNat → jobOfTag s e.tag = some (k, j) →
      ¬ (j.state = .closing ∧ j.committed.sub e.amounts = .zero) →
      ∃ t, exec (.jammed 0 r) s = .next t ∧
        Table.find t.jobUnit.jobs k = some
          { j with
            committed := j.committed.sub ⟨e.committedMono, e.committedColour, 0⟩
            jammed := min 16777215 (j.jammed + 1) } ∧
        onlyJob k s t ∧
        sheetAt t r.sheet = none ∧ (∀ n : BitVec 16, n ≠ r.sheet → sheetAt t n = sheetAt s n) ∧
        t.sheetLink = { s.sheetLink with
          sheets := t.sheetLink.sheets
          answers := s.sheetLink.answers ++ [reportAckFrame r.sheet r.tag false], receiver := .idle } ∧
        onlyParts [.job, .sheet] s t) ∧
  (∀ (s : State) (r : SheetReport) (e : Sheet) (k i counted : Nat) (j resolved : Job) (a : Account) (ev : Instr),
      down s = false → linkIdle s → reportLegal r = true →
      sheetAt s r.sheet = some e → e.tag = r.tag.toNat → jobOfTag s e.tag = some (k, j) → j.owner = some i →
      j.kind = .print → j.state = .closing → j.committed.sub e.amounts = .zero →
      (((ev = .jammed 0 r ∨ ev = .jammed 1 r) ∧ counted = 0 ∧ a = account s i ∧
          resolved = { j with committed := .zero, jammed := min 16777215 (j.jammed + 1) }) ∨
        (ev = .delivered r ∧ counted = 1 ∧
          a = (account s i).charge ⟨e.committedMono, e.committedColour, 0⟩ e.sideCounts ∧
          resolved = { j with
            committed := .zero, charged := j.charged.add ⟨e.committedMono, e.committedColour, 0⟩
            delivered := min 16777215 (j.delivered + 1) })) →
      ∃ t, exec ev s = .next t ∧ printSettled k i resolved a s t ∧
        t.noticeUnit.pending.has .jobSettled = true ∧
        sheetAt t r.sheet = none ∧ (∀ n : BitVec 16, n ≠ r.sheet → sheetAt t n = sheetAt s n) ∧
        t.sheetLink = { s.sheetLink with
          sheets := t.sheetLink.sheets
          answers := s.sheetLink.answers ++ [reportAckFrame r.sheet r.tag false], receiver := .idle } ∧
        onlyParts [.account, .job, .sheet, .station, .notice, .random, .retention] s t ∧
        ((∀ st, (r.doses1.get st).toNat = 0 ∧ (e.sides = 2 → (r.doses2.get st).toNat = 0)) ∨ ev = .jammed 0 r →
          (counted = 1 → s.stationUnit.rotation.counter + 1 < 2 * s.stationUnit.rotation.interval) →
          onlyJob k s t ∧ raised [.jobSettled] s t ∧
          t.stationUnit = { s.stationUnit with
            rotation := { s.stationUnit.rotation with counter := s.stationUnit.rotation.counter + counted } } ∧
          onlyParts [.account, .job, .sheet, .station, .notice, .retention] s t)) ∧
  (∀ (s : State) (r : SheetReport) (e : Sheet) (k i : Nat) (j : Job), down s = false → linkIdle s → reportLegal r = true →
      sheetAt s r.sheet = some e → e.tag = r.tag.toNat → jobOfTag s e.tag = some (k, j) → j.owner = some i →
      ¬ (j.state = .closing ∧ j.committed.sub e.amounts = .zero) →
      ∃ t, exec (.delivered r) s = .next t ∧
        (∃ j', Table.find t.jobUnit.jobs k = some j' ∧
          j' = { j with
            committed := j.committed.sub ⟨e.committedMono, e.committedColour, 0⟩
            charged := j.charged.add ⟨e.committedMono, e.committedColour, 0⟩
            delivered := min 16777215 (j.delivered + 1), state := j'.state, stopReason := j'.stopReason } ∧
          ((j'.state = j.state ∧ j'.stopReason = j.stopReason) ∨
            (j'.state = .stopped ∧ j'.stopReason = some .station ∧ (j.state = .ready ∨ j.state = .active)))) ∧
        account t i = afterEvent (account s i)
          ((account s i).charge ⟨e.committedMono, e.committedColour, 0⟩ e.sideCounts) ∧
        onlyAccount i s t ∧
        sheetAt t r.sheet = none ∧ (∀ n : BitVec 16, n ≠ r.sheet → sheetAt t n = sheetAt s n) ∧
        t.sheetLink = { s.sheetLink with
          sheets := t.sheetLink.sheets
          answers := s.sheetLink.answers ++ [reportAckFrame r.sheet r.tag false], receiver := .idle } ∧
        (s.stationUnit.rotation.counter + 1 < 2 * s.stationUnit.rotation.interval →
          t.stationUnit.rotation =
            { s.stationUnit.rotation with counter := s.stationUnit.rotation.counter + 1 }) ∧
        onlyParts [.account, .job, .sheet, .station, .notice, .random, .retention] s t)

/-- R60, R78; log 16: a whole second raises the sheet's timer, which stops at 30; at 30 the sheet lapses: it is
charged, SHEET_LAPSED is raised, and nothing is metered or sent. R26, R49: where that leaves a CLOSING PRINT job with
nothing committed, the job settles, and the last open job of a RETIRING owner frees it. -/
def Obligations.LapsedSheetIsChargedWithoutDoses : Prop :=
  ∀ (s : State) (n : BitVec 16) (e : Sheet), down s = false → sheetAt s n = some e →
    (∃ t, exec (.sheetTimerSecond n) s = .next t ∧
      sheetAt t n = some { e with seconds := min 30 (e.seconds + 1) } ∧
      (∀ m : BitVec 16, m ≠ n → sheetAt t m = sheetAt s m) ∧
      t = { s with sheetLink := { s.sheetLink with sheets := t.sheetLink.sheets } }) ∧
    (e.seconds < 30 → exec (.sheetLapse n) s = .next s) ∧
    (∀ k i j, e.seconds = 30 → jobOfTag s e.tag = some (k, j) → j.owner = some i →
      ¬ (j.state = .closing ∧ j.committed.sub e.amounts = .zero) →
      ∃ t, exec (.sheetLapse n) s = .next t ∧
        Table.find t.jobUnit.jobs k = some
          { j with
            committed := j.committed.sub ⟨e.committedMono, e.committedColour, 0⟩
            charged := j.charged.add ⟨e.committedMono, e.committedColour, 0⟩
            lapsed := min 16777215 (j.lapsed + 1) } ∧
        onlyJob k s t ∧
        account t i = afterEvent (account s i)
          ((account s i).charge ⟨e.committedMono, e.committedColour, 0⟩ e.sideCounts) ∧
        onlyAccount i s t ∧
        sheetAt t n = none ∧ (∀ m : BitVec 16, m ≠ n → sheetAt t m = sheetAt s m) ∧
        t.sheetLink = { s.sheetLink with sheets := t.sheetLink.sheets } ∧ raised [.sheetLapsed] s t ∧
        onlyParts [.account, .job, .sheet, .notice, .retention] s t) ∧
    (∀ k i j, e.seconds = 30 → jobOfTag s e.tag = some (k, j) → j.owner = some i → j.kind = .print →
      j.state = .closing → j.committed.sub e.amounts = .zero →
      ∃ t, exec (.sheetLapse n) s = .next t ∧
        printSettled k i
          { j with
            committed := .zero, charged := j.charged.add ⟨e.committedMono, e.committedColour, 0⟩
            lapsed := min 16777215 (j.lapsed + 1) }
          ((account s i).charge ⟨e.committedMono, e.committedColour, 0⟩ e.sideCounts) s t ∧
        onlyJob k s t ∧ sheetAt t n = none ∧ (∀ m : BitVec 16, m ≠ n → sheetAt t m = sheetAt s m) ∧
        t.sheetLink = { s.sheetLink with sheets := t.sheetLink.sheets } ∧
        raised [.sheetLapsed, .jobSettled] s t ∧
        onlyParts [.account, .job, .sheet, .notice, .retention] s t)

/-- R76: a report that finds no entry of its sheet number and tag is stray: acknowledged STRAY, counted and
noticed, with no claim and no dose, and the table stays as it is. -/
def Obligations.StrayReportIsOnlyCounted : Prop :=
  ∀ (s : State) (r : SheetReport) (imaged : Byte), down s = false → linkIdle s → reportLegal r = true →
    (imaged = 0 ∨ imaged = 1) → (∀ e, sheetAt s r.sheet = some e → e.tag ≠ r.tag.toNat) →
    ∀ i ∈ [Instr.delivered r, .jammed imaged r],
      ∃ t, exec i s = .next t ∧
        t.sheetLink = { s.sheetLink with
          strayReports := min 255 (s.sheetLink.strayReports + 1)
          answers := s.sheetLink.answers ++ [reportAckFrame r.sheet r.tag true]
          receiver := .idle } ∧
        raised [.strayReport] s t ∧ onlyParts [.sheet, .notice] s t

/-- R56, R61, R73: a bad frame raises SHEET_LINK_BAD, adds 1 to its count, and reaches no table: a frame that fails
its checks, one broken off, and an ask or report with a field out of range. R55: in IDLE a byte that is not a start
byte is discarded and raises nothing; the bytes of a frame are gathered one after the other, and when it is whole it
is taken: the bytes of a good frame do what the FEED_ASK, DELIVERED or JAMMED they spell does. R55, R216: whatever the
receiver is doing, those three are the bytes of their frames, and bytes that follow others act on the state that those
have left; so behind the first bytes of another frame they are gathered with them, and may end in a bad frame. That
these rows carry bytes that arrive is the model's choice (log 28). -/
def Obligations.BadFrameIsCountedAndDiscarded : Prop :=
  (∀ (s : State) (i : Instr), down s = false →
    ((∃ bytes, i = .badFrame bytes ∧ s.sheetLink.receiver = .idle ∧ gathered bytes = true ∧
        frameGood bytes = false) ∨
      (∃ sofar bytes, i = .badFrame bytes ∧ s.sheetLink.receiver = .gathering sofar ∧
        partlyGathered sofar = true ∧ gathered (sofar ++ bytes) = true ∧ frameGood (sofar ++ bytes) = false) ∨
      (∃ bytes, i = .frameGapTimeout bytes ∧ s.sheetLink.receiver = .idle ∧ partlyGathered bytes = true) ∨
      (∃ sofar, i = .frameGapTimeout [] ∧ s.sheetLink.receiver = .gathering sofar) ∨
      (∃ a, i = .feedAsk a ∧ linkIdle s ∧
        (a.tag = 0 ∨ (a.sides ≠ 1 ∧ a.sides ≠ 2) ∨ (a.size ≠ 1 ∧ a.size ≠ 2) ∨ 1 < a.class1.toNat ∨
          1 < a.class2.toNat ∨ (a.sides = 1 ∧ a.class2 ≠ 0) ∨ a.mask = 0 ∨ 31 < a.mask.toNat)) ∨
      (∃ r st, i = .delivered r ∧ linkIdle s ∧
        (r.tag = 0 ∨ 1000 < (r.doses1.get st).toNat ∨ 1000 < (r.doses2.get st).toNat)) ∨
      (∃ r st imaged, i = .jammed imaged r ∧ linkIdle s ∧
        (r.tag = 0 ∨ 1 < imaged.toNat ∨ 1000 < (r.doses1.get st).toNat ∨ 1000 < (r.doses2.get st).toNat))) →
    ∃ t, exec i s = .next t ∧
      t.sheetLink = { s.sheetLink with badFrames := min 255 (s.sheetLink.badFrames + 1), receiver := .idle } ∧
      raised [.sheetLinkBad] s t ∧ onlyParts [.sheet, .notice] s t) ∧
  (∀ (s : State) (bytes : List Byte), down s = false → s.sheetLink.receiver = .idle →
    (∀ b, b ≠ 0xA5 → exec (.badFrame (b :: bytes)) s = exec (.badFrame bytes) s) ∧
    exec (.badFrame []) s = .next s ∧ exec (.frameGapTimeout []) s = .next s ∧
    (partlyGathered bytes = true →
      exec (.badFrame bytes) s =
        .next { s with sheetLink := { s.sheetLink with receiver := .gathering bytes } }) ∧
    (gathered bytes = true → frameGood bytes = true →
      (bytes.getD 1 0 = 1 →
        exec (.badFrame bytes) s = exec (.feedAsk (feedAskOf ((bytes.drop 3).take (bytes.length - 5)))) s) ∧
      (bytes.getD 1 0 = 2 →
        exec (.badFrame bytes) s = exec (.delivered (reportOf ((bytes.drop 3).take (bytes.length - 5)) 3)) s) ∧
      (bytes.getD 1 0 = 3 →
        exec (.badFrame bytes) s =
          exec (.jammed (bytes.getD 6 0) (reportOf ((bytes.drop 3).take (bytes.length - 5)) 4)) s))) ∧
  (∀ (s : State) (sofar bytes : List Byte), down s = false → s.sheetLink.receiver = .gathering sofar →
    partlyGathered sofar = true →
    exec (.badFrame bytes) s =
      exec (.badFrame (sofar ++ bytes)) { s with sheetLink := { s.sheetLink with receiver := .idle } }) ∧
  (∀ (s : State) (bytes more : List Byte), ∃ t,
    exec (.badFrame bytes) s = .next t ∧ exec (.badFrame (bytes ++ more)) s = exec (.badFrame more) t) ∧
  ∀ s : State,
    (∀ a : FeedAsk, exec (.feedAsk a) s =
      exec (.badFrame (frame 1 (le 2 a.sheet.toNat ++ [a.tag, a.sides, a.size, a.class1, a.class2, a.mask]))) s) ∧
    (∀ r : SheetReport, exec (.delivered r) s =
      exec (.badFrame (frame 2 (le 2 r.sheet.toNat ++ [r.tag] ++
        (Station.list.flatMap fun st => le 2 (r.doses1.get st).toNat) ++
        (Station.list.flatMap fun st => le 2 (r.doses2.get st).toNat)))) s) ∧
    (∀ (imaged : Byte) (r : SheetReport), exec (.jammed imaged r) s =
      exec (.badFrame (frame 3 (le 2 r.sheet.toNat ++ [r.tag, imaged] ++
        (Station.list.flatMap fun st => le 2 (r.doses1.get st).toNat) ++
        (Station.list.flatMap fun st => le 2 (r.doses2.get st).toNat)))) s)

/-! ### The stations (04, 05) -/

/-- R87, R88: presence that appears at an EMPTY station on a sound line begins an identity read, on a shorted line it
makes LINE_FAULT; presence that is lost makes the station EMPTY, cancels its exchange and empties its queue. R86, R110:
in STANDBY the monitors report nothing, and only the lines themselves change. That a cancelled PROOF's draw leaves the
queue of draws is how the model reads R95 (DEDUCED, log 5), and what a line event makes of the line itself is log
12. -/
def Obligations.PresenceStartsAndEndsAStation : Prop :=
  (∀ (s : State) (st : Station) (kind : ShortKind) (b : Bool), standby s = true →
      ∀ i ∈ [Instr.presenceAppears st, .presenceLost st, .shortReported st kind, .shortClears st b, .lineOpenChange st b],
        ∃ t, exec i s = .next t ∧ onlyParts [.lines] s t ∧ ∀ st', st' ≠ st → t.lines.get st' = s.lines.get st') ∧
  (∀ (s : State) (st : Station) (kind : ShortKind) (b : Bool) (l : LineInput), s.lines.get st = l →
      (∃ t, exec (.presenceAppears st) s = .next t ∧ lineBecomes st ⟨true, l.condition⟩ s t) ∧
      (∃ t, exec (.presenceLost st) s = .next t ∧
        lineBecomes st ⟨false, if l.condition = .lineOpen then .normal else l.condition⟩ s t) ∧
      (∃ t, exec (.shortReported st kind) s = .next t ∧
        lineBecomes st ⟨l.presence, match kind with | .low => .shortLow | .high => .shortHigh⟩ s t) ∧
      (∃ t, exec (.shortClears st b) s = .next t ∧
        lineBecomes st ⟨l.presence,
          if l.condition = .shortLow ∨ l.condition = .shortHigh then
            if l.presence = true ∧ b = true then .lineOpen else .normal
          else l.condition⟩ s t) ∧
      (∃ t, exec (.lineOpenChange st b) s = .next t ∧
        lineBecomes st ⟨l.presence,
          if b = true ∧ l.presence = true ∧ l.condition = .normal then .lineOpen
          else if b = false ∧ l.condition = .lineOpen then .normal else l.condition⟩ s t)) ∧
  (∀ (s : State) (st : Station) (x : StationRecord), down s = false → standby s = false → station s st = x →
      (x.presence = false → x.state = .empty → x.condition = .normal → x.inFlight = none → x.queue = [] →
        ∃ t, exec (.presenceAppears st) s = .next t ∧
          stationBecomes st { x with presence := true, state := .probing, inFlight := some ⟨.identRead, 1⟩ } s t ∧
          raised [.stationChanged] s t ∧ onlyParts [.station, .notice, .lines] s t) ∧
      (x.presence = false → x.state = .empty → (x.condition = .shortLow ∨ x.condition = .shortHigh) →
        ∃ t, exec (.presenceAppears st) s = .next t ∧
          stationBecomes st { x with presence := true, state := .lineFault } s t ∧ jobsLose st s t ∧
          raised (lossNotices st s [.stationChanged]) s t ∧ onlyParts [.station, .job, .notice, .lines] s t) ∧
      (x.presence = false → x.state = .lineFault →
        ∃ t, exec (.presenceAppears st) s = .next t ∧ stationBecomes st { x with presence := true } s t ∧
          onlyParts [.station, .lines] s t) ∧
      (x.presence = true → x.state ≠ .empty →
        ∃ t, exec (.presenceLost st) s = .next t ∧
          stationBecomes st { x with
            presence := false, state := .empty, rejectReason := none, inFlight := none, queue := []
            condition := if x.condition = .lineOpen then .normal else x.condition } s t ∧
          t.randomSource = drawsWithout st s ∧ raised [.stationChanged] s t ∧
          onlyParts [.station, .random, .notice, .lines] s t))

/-- R89, R90: a short makes the station LINE_FAULT from any state and cancels its exchange; when it clears the
cartridge is read afresh, or the station is EMPTY; a change from one short to the other changes the condition, and one
that clears in another state does no more; a change to or from OPEN changes the condition only. That a cancelled
PROOF's draw leaves the queue of draws is how the model reads R95 (DEDUCED, log 5). -/
def Obligations.ShortsFaultAStation : Prop :=
  ∀ (s : State) (st : Station) (x : StationRecord), down s = false → standby s = false → station s st = x →
    (∀ kind, x.condition ≠ shortCondition kind → x.state ≠ .lineFault →
      ∃ t, exec (.shortReported st kind) s = .next t ∧
        stationBecomes st { x with
          condition := shortCondition kind, state := .lineFault, rejectReason := none, inFlight := none
          queue := [] } s t ∧
        t.randomSource = drawsWithout st s ∧ jobsLose st s t ∧
        raised (lossNotices st s [.stationChanged]) s t ∧ onlyParts [.station, .job, .random, .notice, .lines] s t) ∧
    (∀ lineOpen, (x.condition = .shortLow ∨ x.condition = .shortHigh) → x.state = .lineFault → x.presence = true →
      x.inFlight = none → x.queue = [] →
      ∃ t, exec (.shortClears st lineOpen) s = .next t ∧
        stationBecomes st { x with
          condition := if lineOpen then .lineOpen else .normal, state := .probing
          inFlight := some ⟨.identRead, 1⟩ } s t ∧
        raised [.stationChanged] s t ∧ onlyParts [.station, .notice, .lines] s t) ∧
    (∀ lineOpen, (x.condition = .shortLow ∨ x.condition = .shortHigh) → x.state = .lineFault → x.presence = false →
      ∃ t, exec (.shortClears st lineOpen) s = .next t ∧
        stationBecomes st { x with condition := .normal, state := .empty } s t ∧
        raised [.stationChanged] s t ∧ onlyParts [.station, .notice, .lines] s t) ∧
    (∀ kind, x.condition ≠ shortCondition kind → x.state = .lineFault →
      ∃ t, exec (.shortReported st kind) s = .next t ∧
        stationBecomes st { x with
          condition := shortCondition kind, rejectReason := none, inFlight := none, queue := [] } s t ∧
        t.randomSource = drawsWithout st s ∧ onlyParts [.station, .random, .lines] s t) ∧
    (∀ lineOpen, (x.condition = .shortLow ∨ x.condition = .shortHigh) → x.state ≠ .lineFault →
      ∃ t, exec (.shortClears st lineOpen) s = .next t ∧
        stationBecomes st { x with
          condition := if x.presence = true ∧ lineOpen = true then .lineOpen else .normal } s t ∧
        onlyParts [.station, .lines] s t) ∧
    (x.presence = true → x.condition = .normal →
      ∃ t, exec (.lineOpenChange st true) s = .next t ∧ stationBecomes st { x with condition := .lineOpen } s t ∧
        onlyParts [.station, .lines] s t) ∧
    (x.condition = .lineOpen →
      ∃ t, exec (.lineOpenChange st false) s = .next t ∧ stationBecomes st { x with condition := .normal } s t ∧
        onlyParts [.station, .lines] s t)

/-- R93, R94: a failed attempt raises the link error count and is sent again with the same request; the third makes the
station UNREACHABLE and empties its queue, and a YIELD_WRITE then raises WRITE_BACK_FAILED. R90, R96, R100, R118: an
answer whose check, kind, length or field is bad is a failed attempt; on an open line no answer reaches the part, and
the condition is looked at when the answer is read (DESIGN CHOICE, log 30). R93, R217: an attempt writes its request,
closed by its check, to the chip at address 0x3A, and reads an answer of its kind's length from there. -/
def Obligations.FailedAttempts : Prop :=
  ((attemptAccesses .identRead = [.write 0x3A [0x10, crc8 [0x10]], .read 0x3A 17]) ∧
    attemptAccesses (.proof none) = [] ∧
    (∀ nonce, attemptAccesses (.proof (some nonce)) =
      [.write 0x3A (0x20 :: le 16 nonce.toNat ++ [crc8 (0x20 :: le 16 nonce.toNat)]), .read 0x3A 37]) ∧
    ∀ value toggle base, attemptAccesses (.yieldWrite value toggle base) =
      [.write 0x3A (0x30 :: (flag toggle ++ le 3 value) ++ [crc8 (0x30 :: (flag toggle ++ le 3 value))]),
       .read 0x3A 6]) ∧
  (∀ (s : State) (st : Station) (x : StationRecord) (f : InFlight), down s = false → station s st = x →
      x.inFlight = some f → f.exchange ≠ .proof none →
      (f.attempt < 3 →
        ∃ t, exec (.exchangeWaitExpired st) s = .next t ∧
          stationBecomes st { x with
            linkErrors := min 255 (x.linkErrors + 1), inFlight := some ⟨f.exchange, f.attempt + 1⟩ } s t ∧
          onlyParts [.station] s t) ∧
      (3 ≤ f.attempt → x.state ≠ .unreachable →
        ∃ t, exec (.exchangeWaitExpired st) s = .next t ∧
          stationBecomes st { x with
            linkErrors := min 255 (x.linkErrors + 1), inFlight := none, queue := [], state := .unreachable } s t ∧
          jobsLose st s t ∧
          raised (lossNotices st s
            (if f.exchange.kind = .yieldWrite then [.stationChanged, .writeBackFailed] else [.stationChanged])) s t ∧
          onlyParts [.station, .job, .notice] s t)) ∧
  (∀ (s : State) (st : Station) (f : InFlight) (bytes body : List Byte) (kind : Byte) (length : Nat),
      down s = false → (station s st).inFlight = some f →
      let answer : Instr := match f.exchange with
        | .identRead => .identReadAnswer st bytes
        | .proof _ => .proofAnswer st bytes
        | .yieldWrite _ _ _ => .yieldWriteAnswer st bytes
      ((f.exchange = .identRead ∧ kind = 0x90 ∧ length = 17) ∨
        ((∃ nonce, f.exchange = .proof (some nonce)) ∧ kind = 0xA0 ∧ length = 37) ∨
        ((∃ v w b, f.exchange = .yieldWrite v w b) ∧ kind = 0xB0 ∧ length = 6)) →
      ((s.lines.get st).condition = .lineOpen → exec answer s = .next s) ∧
      ((s.lines.get st).condition ≠ .lineOpen → bytes.head? ≠ some 0xFF →
        (bytes.length ≠ length ∨ bytes.head? ≠ some kind ∨
          bytes.getLast? ≠ some (crc8 (bytes.take (length - 1)))) →
        exec answer s = exec (.exchangeWaitExpired st) s) ∧
      ((s.lines.get st).condition ≠ .lineOpen → bytes = withCheck (kind :: body) → bytes.length = length →
        (f.exchange = .identRead → 4 < u8 body 8 ∨ u24 body 9 = 0 ∨ u24 body 9 < u24 body 12) →
        (∀ nonce, f.exchange = .proof (some nonce) → ∃ c, (station s st).cartridge = some c ∧ c.rated < u24 body 0) →
        (∀ v w b, f.exchange = .yieldWrite v w b →
          ∃ c, (station s st).cartridge = some c ∧ (u8 body 3 ≠ w.toNat ∨ c.rated < u24 body 0)) →
        exec answer s = exec (.exchangeWaitExpired st) s))

/-- R96 to R98, R100: a good identity of the station's own colour is accepted: the counts follow the serial, the
station is CHALLENGING, and PROOF asks for its nonce, or stays queued while the random source is UNHEALTHY (R92,
R132). R97, R102: a cartridge of another colour, and one whose digest does not match, is REJECTED, with its counts
kept and its queue emptied. That the PROOF is in flight at attempt 1 while its nonce is still to be drawn, and that
all draws wait in one queue, is how the model reads R92 and R133 (DEDUCED, log 5). -/
def Obligations.IdentityIsAcceptedOrRejected : Prop :=
  (∀ (s : State) (st : Station) (x : StationRecord) (n : Nat) (serial : BitVec 64) (rated stored : Nat) (bytes : List Byte),
      down s = false → station s st = x → x.inFlight = some ⟨.identRead, n⟩ → x.queue = [] → x.state = .probing →
      (s.lines.get st).condition ≠ .lineOpen → 1 ≤ rated → rated ≤ 16777215 → stored ≤ rated →
      bytes = withCheck (0x90 :: (bitsToBytes 8 serial ++ [byteOf (stationCode st)] ++ le 3 rated ++ le 3 stored)) →
      ∃ t, exec (.identReadAnswer st bytes) s = .next t ∧
        (x.cartridge.map (·.serial) = some serial →
          stationBecomes st { x with
            state := .challenging, colour := some st, cartridge := some ⟨serial, rated⟩
            remaining := min x.remaining stored, written := stored, unwritten := stored - min x.remaining stored
            inFlight := (station t st).inFlight, queue := (station t st).queue } s t) ∧
        (x.cartridge.map (·.serial) ≠ some serial →
          stationBecomes st { x with
            state := .challenging, colour := some st, cartridge := some ⟨serial, rated⟩, remaining := stored
            written := stored, unwritten := 0, toggle := false, graceUsed := 0, lowRaised := false
            inFlight := (station t st).inFlight, queue := (station t st).queue } s t) ∧
        (s.randomSource.health = .healthy →
          (station t st).inFlight = some ⟨.proof none, 1⟩ ∧ (station t st).queue = [] ∧
          t.randomSource = { s.randomSource with draws := s.randomSource.draws ++ [.nonce st] }) ∧
        (s.randomSource.health = .unhealthy →
          (station t st).inFlight = none ∧ (station t st).queue = [.proof] ∧ t.randomSource = s.randomSource) ∧
        raised [.stationChanged] s t ∧ onlyParts [.station, .random, .notice] s t) ∧
  (∀ (s : State) (st : Station) (x : StationRecord) (n : Nat),
      down s = false → station s st = x → (s.lines.get st).condition ≠ .lineOpen → x.state ≠ .rejected →
      (∀ (colour : Station) (serial : BitVec 64) (rated stored : Nat) (bytes : List Byte),
        x.inFlight = some ⟨.identRead, n⟩ → colour ≠ st → 1 ≤ rated → rated ≤ 16777215 → stored ≤ rated →
        bytes = withCheck (0x90 :: (bitsToBytes 8 serial ++ [byteOf (stationCode colour)] ++ le 3 rated ++ le 3 stored)) →
        ∃ t, exec (.identReadAnswer st bytes) s = .next t ∧
          stationBecomes st { x with
            state := .rejected, rejectReason := some .wrongStation, colour := some colour, inFlight := none
            queue := [] } s t ∧
          jobsLose st s t ∧ raised (lossNotices st s [.stationChanged]) s t ∧
          onlyParts [.station, .job, .notice] s t) ∧
      (∀ (nonce : BitVec 128) (c : Cartridge) (digest : BitVec 256) (stored : Nat) (bytes : List Byte),
        x.inFlight = some ⟨.proof (some nonce), n⟩ → x.cartridge = some c → stored ≤ c.rated → stored ≤ 16777215 →
        digest ≠ expectedDigest c.serial nonce stored →
        bytes = withCheck (0xA0 :: (le 3 stored ++ bitsToBytes 32 digest)) →
        ∃ t, exec (.proofAnswer st bytes) s = .next t ∧
          stationBecomes st { x with
            state := .rejected, rejectReason := some .failedProof, inFlight := none, queue := [] } s t ∧
          jobsLose st s t ∧ raised (lossNotices st s [.stationChanged]) s t ∧
          onlyParts [.station, .job, .notice] s t))

/-- R92, R100, R101, R133: the draw gives the PROOF its nonce, one that no earlier draw returned (what was returned is
the model's own record, log 4); a matching digest takes the lower count and chooses GENUINE, GRACE or EXHAUSTED; with
an unwritten dose of 20,000 or more, or a YIELD_WRITE pending, a write then starts. That a PROOF in flight has no
nonce until the draw at the head of one queue ends is how the model reads R92 (DEDUCED, log 5). -/
def Obligations.MatchingProofChoosesTheState : Prop :=
  (∀ (s : State) (st : Station) (nonce : BitVec 128), .nonce nonce ∈ s.randomSource.returned →
    exec (.nonceDraw st nonce) s = .next s) ∧
  ∀ (s : State) (st : Station) (x : StationRecord) (n : Nat) (nonce : BitVec 128),
    down s = false → station s st = x →
    (∀ rest, x.inFlight = some ⟨.proof none, n⟩ → s.randomSource.draws = .nonce st :: rest →
      .nonce nonce ∉ s.randomSource.returned →
      ∃ t, exec (.nonceDraw st nonce) s = .next t ∧
        stationBecomes st { x with inFlight := some ⟨.proof (some nonce), n⟩ } s t ∧
        t.randomSource =
          { s.randomSource with draws := rest, returned := .nonce nonce :: s.randomSource.returned } ∧
        onlyParts [.station, .random] s t) ∧
    (∀ (c : Cartridge) (stored left : Nat) (bytes : List Byte) (new : StationState),
      x.inFlight = some ⟨.proof (some nonce), n⟩ → (x.state = .challenging ∨ x.state = .rechecking) →
      x.cartridge = some c → stored ≤ c.rated → stored ≤ 16777215 → left = min x.remaining stored →
      ((x.queue = [] ∧ 20000 ≤ stored - left) ∨ x.queue = [.yieldWrite]) →
      (s.lines.get st).condition ≠ .lineOpen →
      bytes = withCheck (0xA0 :: (le 3 stored ++ bitsToBytes 32 (expectedDigest c.serial nonce stored))) →
      new = (if 0 < left then StationState.genuine
        else if x.graceUsed < x.graceAllowance then .grace else .exhausted) →
      ∃ t, exec (.proofAnswer st bytes) s = .next t ∧
        stationBecomes st { x with
          state := new, remaining := left, written := stored, unwritten := stored - left, queue := []
          inFlight := some ⟨.yieldWrite left x.toggle (stored - left), 1⟩ } s t ∧
        (new = .exhausted → jobsLose st s t ∧ raised (lossNotices st s [.stationChanged]) s t) ∧
        (new ≠ .exhausted → t.jobUnit = s.jobUnit ∧ raised [.stationChanged] s t) ∧
        onlyParts [.station, .job, .notice] s t) ∧
    (∀ (c : Cartridge) (stored left : Nat) (bytes : List Byte),
      x.inFlight = some ⟨.proof (some nonce), n⟩ → (x.state = .challenging ∨ x.state = .rechecking) →
      x.queue = [] → x.cartridge = some c → stored ≤ c.rated → stored ≤ 16777215 → left = min x.remaining stored →
      stored - left < 20000 → (s.lines.get st).condition ≠ .lineOpen →
      bytes = withCheck (0xA0 :: (le 3 stored ++ bitsToBytes 32 (expectedDigest c.serial nonce stored))) →
      (0 < left →
        ∃ t, exec (.proofAnswer st bytes) s = .next t ∧
          stationBecomes st { x with
            state := .genuine, remaining := left, written := stored, unwritten := stored - left, inFlight := none } s t ∧
          raised [.stationChanged] s t ∧ onlyParts [.station, .notice] s t) ∧
      (left = 0 → x.graceUsed < x.graceAllowance →
        ∃ t, exec (.proofAnswer st bytes) s = .next t ∧
          stationBecomes st { x with
            state := .grace, remaining := 0, written := stored, unwritten := stored, inFlight := none } s t ∧
          raised [.stationChanged] s t ∧ onlyParts [.station, .notice] s t) ∧
      (left = 0 → x.graceAllowance ≤ x.graceUsed →
        ∃ t, exec (.proofAnswer st bytes) s = .next t ∧
          stationBecomes st { x with
            state := .exhausted, remaining := 0, written := stored, unwritten := stored, inFlight := none } s t ∧
          jobsLose st s t ∧ raised (lossNotices st s [.stationChanged]) s t ∧
          onlyParts [.station, .job, .notice] s t))

/-- R119, R120: a confirmed write takes the stored value, flips the toggle and raises WRITE_BACK_DONE; a stale one
flips the toggle without the notice, and another write starts at once with what then remains. A confirmed write that
leaves 20,000 or more unwritten is followed by another; one that takes a GENUINE station's remaining yield to 0 ends
in GRACE or EXHAUSTED (R113). R91, R92, R132: when the write ends, the next exchange of the queue starts; a PROOF does
not while the random source is UNHEALTHY, and the write behind it starts then. That the next exchange starts before
the request for another write is log 25, and that a PROOF in flight waits for its nonce, log 5 (both DEDUCED). That a
stored value below the remaining yield is taken by the steps of R119, though the outcome then depends on the order in
which a dose meets it and the first bullet of R127 says that it does not, is the model's choice (log 32). -/
def Obligations.WriteAnswerConfirmsOrIsStale : Prop :=
  ∀ (s : State) (st : Station) (x y z : StationRecord) (n value base stored left : Nat) (toggle : Bool) (c : Cartridge)
    (bytes : List Byte),
    down s = false → station s st = x → x.inFlight = some ⟨.yieldWrite value toggle base, n⟩ →
    x.queue ∈ legalQueues →
    x.cartridge = some c → stored ≤ c.rated → stored ≤ 16777215 → (s.lines.get st).condition ≠ .lineOpen →
    left = min x.remaining stored → bytes = withCheck (0xB0 :: (le 3 stored ++ flag toggle)) →
    y = { x with
      remaining := left, written := stored, unwritten := stored - left, toggle := !x.toggle, inFlight := none } →
    (stored ≤ value → stored - left < 20000 → ¬ (x.state = .genuine ∧ 0 < x.remaining ∧ left = 0) →
      z = nextStarted s.randomSource.health y →
      ∃ t, exec (.yieldWriteAnswer st bytes) s = .next t ∧ stationBecomes st z s t ∧
        t.randomSource = nonceAsked st y z s ∧
        raised [.writeBackDone] s t ∧ onlyParts [.station, .random, .notice] s t) ∧
    (stored ≤ value → 20000 ≤ stored - left →
      (x.state = .genuine ∨ x.state = .rechecking ∨ x.state = .grace ∨ x.state = .exhausted) →
      z = asked s.randomSource.health .yieldWrite (nextStarted s.randomSource.health y) →
      ∃ t, exec (.yieldWriteAnswer st bytes) s = .next t ∧ stationBecomes st z s t ∧
        t.randomSource = nonceAsked st y z s ∧
        raised [.writeBackDone] s t ∧ onlyParts [.station, .random, .notice] s t) ∧
    (x.state = .genuine → 0 < x.remaining → stored = 0 →
      (x.graceUsed < x.graceAllowance →
        ∃ t, exec (.yieldWriteAnswer st bytes) s = .next t ∧
          stationBecomes st (nextStarted s.randomSource.health { y with state := .grace }) s t ∧
          raised [.writeBackDone, .stationChanged] s t ∧ onlyParts [.station, .random, .notice] s t) ∧
      (x.graceAllowance ≤ x.graceUsed →
        ∃ t, exec (.yieldWriteAnswer st bytes) s = .next t ∧
          stationBecomes st (nextStarted s.randomSource.health { y with state := .exhausted }) s t ∧
          jobsLose st s t ∧ raised (lossNotices st s [.writeBackDone, .stationChanged]) s t ∧
          onlyParts [.station, .job, .random, .notice] s t) ∧
      (z = nextStarted s.randomSource.health y →
        ∃ t, exec (.yieldWriteAnswer st bytes) s = .next t ∧ t.randomSource = nonceAsked st y z s)) ∧
    (value < stored →
      (x.state = .genuine ∨ x.state = .rechecking ∨ x.state = .grace ∨ x.state = .exhausted) →
      z = nextStarted s.randomSource.health (asked s.randomSource.health .yieldWrite y) →
      ∃ t, exec (.yieldWriteAnswer st bytes) s = .next t ∧ stationBecomes st z s t ∧
        t.randomSource = nonceAsked st y z s ∧ onlyParts [.station, .random] s t)

/-- R103, R105: RECHECK_STATION sends a GENUINE or GRACE station to a fresh PROOF and an UNREACHABLE one to a fresh
identity read, and is refused in any other state and in STANDBY. R91, R92, R116, R117, R122, R125: WRITE_BACK_YIELD
starts a write of the remaining yield, or is merged with one pending; SET_GRACE replaces the allowance, which acts at
once in GRACE only; SET_ROTATION starts its schedule from slot 0; all three are refused in STANDBY. R91, R92, R103,
R132: a PROOF or a write asked for while an exchange is in flight waits behind it, and a PROOF waits while the random
source is UNHEALTHY, with the write behind it started. That the re-check's PROOF is in flight at attempt 1
while its nonce is still to be drawn is how the model reads R92 (DEDUCED, log 5). -/
def Obligations.StationCommandsActOnTheirStation : Prop :=
  (∀ (s : State) (r : Request) (st : Station) (x z : StationRecord), ready s → station s st = x →
      carries r 4 [byteOf (stationCode st)] →
      (standby s = true →
        ∃ t, exec (.recheckStation r) s = .next t ∧ answers t .standby [] ∧ onlyParts [.control] s t) ∧
      (standby s = false → (x.state = .genuine ∨ x.state = .grace) → x.queue ∈ legalQueues →
        z = asked s.randomSource.health .proof { x with state := .rechecking } →
        ∃ t, exec (.recheckStation r) s = .next t ∧ answers t .accepted [] ∧ stationBecomes st z s t ∧
          t.randomSource = nonceAsked st x z s ∧
          raised [.stationChanged] s t ∧ onlyParts [.control, .station, .random, .notice] s t) ∧
      (standby s = false → x.state = .unreachable → x.inFlight = none → x.queue = [] →
        ∃ t, exec (.recheckStation r) s = .next t ∧ answers t .accepted [] ∧
          stationBecomes st { x with state := .probing, inFlight := some ⟨.identRead, 1⟩ } s t ∧
          raised [.stationChanged] s t ∧ onlyParts [.control, .station, .notice] s t) ∧
      (standby s = false → x.state ≠ .genuine → x.state ≠ .grace → x.state ≠ .unreachable →
        ∃ t, exec (.recheckStation r) s = .next t ∧ answers t .badState [] ∧ onlyParts [.control] s t)) ∧
  (∀ (s : State) (r : Request) (i : Instr), ready s → standby s = true →
      ((∃ st, i = .writeBackYield r ∧ carries r 4 [byteOf (stationCode st)]) ∨
        (∃ st, i = .setGrace r ∧ carries r 4 [byteOf (stationCode st)]) ∨
        (i = .setRotation r ∧ ∃ (count v : Nat) (slots : List (Option Station)), 1 ≤ count ∧ count ≤ 16 ∧ 1 ≤ v ∧
          v ≤ 255 ∧ slots.length = 16 ∧
          carries r 20 ([byteOf count, byteOf v] ++ slots.map fun o => byteOf (slotCode o)))) →
      ∃ t, exec i s = .next t ∧ answers t .standby [] ∧ onlyParts [.control] s t) ∧
  (∀ (s : State) (r : Request) (st : Station) (x z : StationRecord), readyInRun s → station s st = x →
      (carries r 4 [byteOf (stationCode st)] →
        ((x.state = .genuine ∨ x.state = .rechecking ∨ x.state = .grace ∨ x.state = .exhausted) →
          (x.queue ∈ legalQueues → z = asked s.randomSource.health .yieldWrite x →
            ∃ t, exec (.writeBackYield r) s = .next t ∧ answers t .accepted [] ∧ stationBecomes st z s t ∧
              t.randomSource = nonceAsked st x z s ∧ onlyParts [.control, .station, .random] s t) ∧
          (x.queue.contains .yieldWrite = true →
            ∃ t, exec (.writeBackYield r) s = .next t ∧ answers t .accepted [] ∧ onlyParts [.control] s t)) ∧
        (x.state.acceptsWrite = false →
          ∃ t, exec (.writeBackYield r) s = .next t ∧ answers t .badState [] ∧ onlyParts [.control] s t)) ∧
      (∀ allowance, allowance ≤ 255 → carries r 4 [byteOf (stationCode st), byteOf allowance] →
        (¬ (x.state = .grace ∧ allowance ≤ x.graceUsed) →
          ∃ t, exec (.setGrace r) s = .next t ∧ answers t .ok [] ∧
            stationBecomes st { x with graceAllowance := allowance } s t ∧ onlyParts [.control, .station] s t) ∧
        (x.state = .grace → allowance ≤ x.graceUsed →
          ∃ t, exec (.setGrace r) s = .next t ∧ answers t .ok [] ∧
            stationBecomes st { x with graceAllowance := allowance, state := .exhausted } s t ∧ jobsLose st s t ∧
            raised (lossNotices st s [.stationChanged]) s t ∧ onlyParts [.control, .station, .job, .notice] s t)) ∧
      (∀ (count v : Nat) (slots : List (Option Station)), 1 ≤ count → count ≤ 16 → 1 ≤ v → v ≤ 255 →
        slots.length = 16 →
        carries r 20 ([byteOf count, byteOf v] ++ slots.map fun o => byteOf (slotCode o)) →
        ∃ t, exec (.setRotation r) s = .next t ∧ answers t .ok [] ∧
          t.stationUnit = { s.stationUnit with
            rotation := { slots := slots, count := count, interval := v, pointer := 0, counter := 0 } } ∧
          onlyParts [.control, .station] s t))

/-- R111 to R114: a dose of a jammed sheet that was imaged lowers the remaining yield and raises the unwritten dose
by as much; at 5% of the rated yield YIELD_LOW is raised once; at 0 a GENUINE station enters GRACE or EXHAUSTED and
its count is written; a side at 0 counts against the grace allowance. R74, R75, R77: DELIVERED, and JAMMED of a sheet
that was imaged, meter side 1 and then side 2 of a duplex sheet, whatever exchange is in flight; R111, R114, R115: a
station with no retained serial disregards its doses, grace sides are counted in RECHECKING too, and 20,000
unwritten units, above the base while a write is in flight, request a YIELD_WRITE. That a dose which comes to 20,000
behind a write of WRITE_BACK_YIELD in flight requests none, as R115 has it and the last bullet of R127 has not, is the
model's choice (log 31). -/
def Obligations.DoseIsMeteredAgainstTheCartridge : Prop :=
  (∀ (s : State) (r : SheetReport) (e : Sheet) (st : Station) (d1 d2 : Nat) (x : StationRecord) (ev : Instr),
    down s = false → linkIdle s → reportLegal r = true → sheetAt s r.sheet = some e → e.tag = r.tag.toNat →
    (ev = .jammed 1 r ∨ (ev = .delivered r ∧
      s.stationUnit.rotation.counter + 1 < 2 * s.stationUnit.rotation.interval)) →
    (r.doses1.get st).toNat = d1 → (if e.sides = 2 then (r.doses2.get st).toNat else 0) = d2 → 1 ≤ d1 + d2 →
    (∀ st', st' ≠ st → (r.doses1.get st').toNat = 0 ∧ (r.doses2.get st').toNat = 0) →
    (∀ k j, jobOfTag s e.tag = some (k, j) → j.state ≠ .closing) → station s st = x →
    ∃ t, exec ev s = .next t ∧ (∀ st', st' ≠ st → station t st' = station s st') ∧
      onlyParts [.sheet, .account, .retention, .job, .station, .notice, .random] s t ∧
      (x.cartridge = none → station t st = x ∧ t.noticeUnit = s.noticeUnit) ∧
      (∀ c, x.cartridge = some c →
        (d1 + d2 < x.remaining → x.unwritten + d1 + d2 < 20000 →
          station t st = { x with
            remaining := x.remaining - (d1 + d2), unwritten := x.unwritten + (d1 + d2)
            lowRaised := x.lowRaised || decide (20 * (x.remaining - (d1 + d2)) ≤ c.rated) } ∧
          raised (if x.lowRaised = false ∧ 20 * (x.remaining - (d1 + d2)) ≤ c.rated then [.yieldLow] else []) s t) ∧
        (x.state = .genuine → x.inFlight = none → x.queue = [] → 0 < x.remaining → x.graceUsed < x.graceAllowance →
          x.graceUsed < 255 →
          (x.remaining ≤ d1 →
            station t st = { x with
              state := if d2 = 0 ∨ x.graceUsed + 1 < x.graceAllowance then .grace else .exhausted
              graceUsed := if d2 = 0 then x.graceUsed else x.graceUsed + 1
              remaining := 0, unwritten := x.unwritten + x.remaining, lowRaised := true
              inFlight := some ⟨.yieldWrite 0 x.toggle (x.unwritten + x.remaining), 1⟩ }) ∧
          (d1 < x.remaining → x.remaining ≤ d1 + d2 → x.unwritten + d1 < 20000 →
            station t st = { x with
              state := .grace, remaining := 0, unwritten := x.unwritten + x.remaining, lowRaised := true
              inFlight := some ⟨.yieldWrite 0 x.toggle (x.unwritten + x.remaining), 1⟩ })) ∧
        (x.state = .rechecking → x.remaining = 0 → x.lowRaised = true → x.unwritten < 20000 →
          station t st = { x with
            graceUsed := min 255 (x.graceUsed + (if d1 = 0 then 0 else 1) + (if d2 = 0 then 0 else 1)) }) ∧
        (d2 = 0 → d1 < x.remaining →
          (x.state = .genuine ∨ x.state = .rechecking ∨ x.state = .grace ∨ x.state = .exhausted) →
          (x.inFlight = none → x.queue = [] → 20000 ≤ x.unwritten + d1 →
            station t st = { x with
              remaining := x.remaining - d1, unwritten := x.unwritten + d1
              lowRaised := x.lowRaised || decide (20 * (x.remaining - d1) ≤ c.rated)
              inFlight := some ⟨.yieldWrite (x.remaining - d1) x.toggle (x.unwritten + d1), 1⟩ }) ∧
          (∀ f base, x.inFlight = some f →
            base = (match f.exchange with | .yieldWrite _ _ b => b | _ => 0) →
            station t st = { x with
              remaining := x.remaining - d1, unwritten := x.unwritten + d1
              lowRaised := x.lowRaised || decide (20 * (x.remaining - d1) ≤ c.rated)
              queue := if 20000 ≤ x.unwritten + d1 - base ∧ ExchangeKind.yieldWrite ∉ x.queue then
                x.queue ++ [.yieldWrite] else x.queue })))) ∧
  ∀ (s : State) (r : SheetReport) (e : Sheet) (st : Station) (d : Nat) (x : StationRecord) (c : Cartridge),
    down s = false → linkIdle s → reportLegal r = true → sheetAt s r.sheet = some e → e.tag = r.tag.toNat → e.sides = 1 →
    (r.doses1.get st).toNat = d → 1 ≤ d → (∀ st', st' ≠ st → (r.doses1.get st').toNat = 0) →
    (∀ k j, jobOfTag s e.tag = some (k, j) → j.state ≠ .closing) →
    station s st = x → x.cartridge = some c → x.queue = [] → x.inFlight = none →
    (d < x.remaining → x.unwritten + d < 20000 →
      ∃ t, exec (.jammed 1 r) s = .next t ∧
        stationBecomes st { x with
          remaining := x.remaining - d, unwritten := x.unwritten + d
          lowRaised := x.lowRaised || decide (20 * (x.remaining - d) ≤ c.rated) } s t ∧
        (x.lowRaised = false → 20 * (x.remaining - d) ≤ c.rated → raised [.yieldLow] s t) ∧
        ((x.lowRaised = true ∨ c.rated < 20 * (x.remaining - d)) → t.noticeUnit = s.noticeUnit) ∧
        onlyParts [.sheet, .job, .station, .notice] s t) ∧
    (x.state = .genuine → 0 < x.remaining → x.remaining ≤ d → x.graceUsed < x.graceAllowance →
      ∃ t, exec (.jammed 1 r) s = .next t ∧
        stationBecomes st { x with
          state := .grace, remaining := 0, unwritten := x.unwritten + x.remaining, lowRaised := true
          inFlight := some ⟨.yieldWrite 0 x.toggle (x.unwritten + x.remaining), 1⟩ } s t ∧
        raised (if x.lowRaised then [.stationChanged] else [.yieldLow, .stationChanged]) s t ∧
        onlyParts [.sheet, .job, .station, .notice] s t) ∧
    (x.state = .genuine → 0 < x.remaining → x.remaining ≤ d → x.graceAllowance ≤ x.graceUsed →
      ∃ t, exec (.jammed 1 r) s = .next t ∧
        stationBecomes st { x with
          state := .exhausted, remaining := 0, unwritten := x.unwritten + x.remaining, lowRaised := true
          inFlight := some ⟨.yieldWrite 0 x.toggle (x.unwritten + x.remaining), 1⟩ } s t ∧
        (∀ k j, Table.find t.jobUnit.jobs k = some j → j.stationsUsed.get st = true →
          j.state ≠ .ready ∧ j.state ≠ .active) ∧
        onlyParts [.sheet, .job, .station, .notice] s t) ∧
    (x.state = .grace → x.remaining = 0 → x.lowRaised = true → x.unwritten < 20000 → x.graceUsed < 255 →
      (x.graceUsed + 1 < x.graceAllowance →
        ∃ t, exec (.jammed 1 r) s = .next t ∧
          stationBecomes st { x with graceUsed := x.graceUsed + 1 } s t ∧
          onlyParts [.sheet, .job, .station] s t) ∧
      (x.graceAllowance ≤ x.graceUsed + 1 →
        ∃ t, exec (.jammed 1 r) s = .next t ∧
          stationBecomes st { x with graceUsed := x.graceUsed + 1, state := .exhausted } s t ∧
          onlyParts [.sheet, .job, .station, .notice] s t))

/-- R80, R103, R124; log 15: a counter that has come to 2v takes its slot: it becomes 0, the pointer moves on, and a
GENUINE or GRACE station named there is sent to PROOF, which waits behind an exchange in flight, and while the random
source is UNHEALTHY (R91, R92, R132); DELIVERED completes the interval in its own event. That the
PROOF is in flight at attempt 1 while its nonce is still to be drawn is how the model reads R92 (DEDUCED, log 5). -/
def Obligations.FullIntervalTakesItsSlot : Prop :=
  ∀ (s : State) (p : Nat) (slot : Option Station), down s = false →
    s.stationUnit.rotation.slots[s.stationUnit.rotation.pointer]? = some slot →
    p = (if s.stationUnit.rotation.count ≤ s.stationUnit.rotation.pointer + 1 then 0
      else s.stationUnit.rotation.pointer + 1) →
    (s.stationUnit.rotation.counter < 2 * s.stationUnit.rotation.interval →
      exec .rotationInterval s = .next s) ∧
    (2 * s.stationUnit.rotation.interval ≤ s.stationUnit.rotation.counter →
      (∀ st, slot = some st → (station s st).state ≠ .genuine ∧ (station s st).state ≠ .grace) →
      exec .rotationInterval s = .next { s with stationUnit := { s.stationUnit with
        rotation := { s.stationUnit.rotation with counter := 0, pointer := p } } }) ∧
    (∀ st z, 2 * s.stationUnit.rotation.interval ≤ s.stationUnit.rotation.counter → slot = some st →
      ((station s st).state = .genuine ∨ (station s st).state = .grace) → (station s st).queue ∈ legalQueues →
      z = asked s.randomSource.health .proof { station s st with state := .rechecking } →
      ∃ t, exec .rotationInterval s = .next t ∧ station t st = z ∧
        (∀ st', st' ≠ st → station t st' = station s st') ∧
        t.stationUnit.rotation = { s.stationUnit.rotation with counter := 0, pointer := p } ∧
        t.randomSource = nonceAsked st (station s st) z s ∧
        raised [.stationChanged] s t ∧ onlyParts [.station, .random, .notice] s t) ∧
    (∀ r e, linkIdle s → reportLegal r = true → sheetAt s r.sheet = some e → e.tag = r.tag.toNat →
      s.stationUnit.rotation.counter + 1 = 2 * s.stationUnit.rotation.interval →
      ∃ t, exec (.delivered r) s = .next t ∧
        t.stationUnit.rotation = { s.stationUnit.rotation with counter := 0, pointer := p } ∧
        ∀ st z, slot = some st → (∀ st', (r.doses1.get st').toNat = 0 ∧ (r.doses2.get st').toNat = 0) →
          ((station s st).state = .genuine ∨ (station s st).state = .grace) → (station s st).queue ∈ legalQueues →
          z = asked s.randomSource.health .proof { station s st with state := .rechecking } →
          station t st = z ∧ t.randomSource = nonceAsked st (station s st) z s)

/-! ### Scan capture (06) -/

/-- R43, R139: an accepted PAGE_BEGIN begins the next page: the port is RECEIVING, 1 SCAN unit is committed, and
CAPTURE_READY is sent. R138, R218: the checks in their order; a refusal sends CAPTURE_REFUSE with its reason, raises
PAGE_REFUSED, and changes no record. A message that follows a line held back waits behind it (log 29), so nothing is
held back here. -/
def Obligations.PageBeginIsDecided : Prop :=
  (∀ (s : State) (n k : Nat) (j : Job), down s = false → standby s = false → s.captureUnit.heldBack = [] →
      s.captureUnit.phase = .waiting →
      s.captureUnit.boundSlot = some n → s.captureUnit.boundTag = some j.tag → jobOfTag s j.tag = some (k, j) →
      (j.state = .ready ∨ j.state = .active) → 1 ≤ j.reserved.scan - j.charged.scan - j.committed.scan →
      j.pagesCaptured < 255 →
      ∃ t, exec .pageBegin s = .next t ∧
        t.captureUnit = { s.captureUnit with
          phase := .receiving, page := some ⟨j.pagesCaptured + 1, 0, 0⟩
          status := s.captureUnit.status ++ [[0x01, byteOf j.tag, byteOf (j.pagesCaptured + 1)]] } ∧
        Table.find t.jobUnit.jobs k = some
          { j with state := .active, committed := { j.committed with scan := j.committed.scan + 1 } } ∧
        onlyJob k s t ∧ onlyParts [.capture, .job] s t) ∧
  (∀ (s : State) (k : Nat) (j : Job) (why : Byte), down s = false → s.captureUnit.heldBack = [] →
      ((s.captureUnit.phase = .unbound ∧ why = 0) ∨
        ((s.captureUnit.phase = .receiving ∨ s.captureUnit.phase = .finishing) ∧ why = 1) ∨
        (s.captureUnit.phase = .waiting ∧
          ((standby s = true ∧ why = 2) ∨
            (standby s = false ∧ s.captureUnit.boundTag = some j.tag ∧ jobOfTag s j.tag = some (k, j) ∧
              (((¬ (j.state = .ready ∨ j.state = .active) ∨ s.captureUnit.boundSlot = none) ∧ why = 3) ∨
                ((j.state = .ready ∨ j.state = .active) ∧ s.captureUnit.boundSlot.isSome ∧
                  ((j.reserved.scan - j.charged.scan - j.committed.scan < 1 ∧ why = 4) ∨
                    (1 ≤ j.reserved.scan - j.charged.scan - j.committed.scan ∧ 255 ≤ j.pagesCaptured ∧
                      why = 5)))))))) →
      ∃ t, exec .pageBegin s = .next t ∧
        t.captureUnit = { s.captureUnit with status := s.captureUnit.status ++ [[0x02, why]] } ∧
        raised [.pageRefused] s t ∧ onlyParts [.capture, .notice] s t)

/-- R130, R140, R145: a line in RECEIVING joins the filling store; in any other phase it is discarded and counted; one
of a wrong length drops the page. With the ready indication off, which is so while both stores are handed off in
RECEIVING and FINISHING, the scanner holds the line, and what follows it; that it sends them, in their order, on a
step with nothing waiting is log 29. -/
def Obligations.LineIsTakenOrDiscarded : Prop :=
  (∀ (s : State) (pixels : List Byte) (store : BandStore) (p : Page) (format : LineFormat), down s = false →
    s.captureUnit.heldBack = [] →
    (s.captureUnit.phase ≠ .receiving → (s.captureUnit.phase = .finishing → s.captureUnit.filling ≠ none) →
      exec (.line pixels) s = .next { s with captureUnit := { s.captureUnit with
        discarded := min 65535 (s.captureUnit.discarded + 1) } }) ∧
    (s.captureUnit.phase = .receiving → s.captureUnit.filling = some store → s.captureUnit.page = some p →
      s.captureUnit.format = some format →
      (pixels.length = format.pixels * format.bytesPerPixel → store.lines + 1 < 64 → p.lines + 1 < 10240 →
        exec (.line pixels) s = .next { s with captureUnit := { s.captureUnit with
          filling := some ⟨store.lines + 1, store.bytes ++ pixels⟩, page := some ⟨p.number, p.lines + 1, p.bands⟩ } }) ∧
      (∀ n k j, pixels.length ≠ format.pixels * format.bytesPerPixel → capturing n k j p s →
        ∃ t, exec (.line pixels) s = .next t ∧ pageDropped n k j p .scannerAbort [[0x03, 1]] s t ∧
          raised (stopNotices j []) s t ∧ onlyParts [.capture, .hold, .job, .notice] s t) ∧
      (∀ n k i j, pixels.length ≠ format.pixels * format.bytesPerPixel → closing n k i j p s →
        ∃ t, exec (.line pixels) s = .next t ∧ closingDropped n k i j p [[0x03, 1]] [] s t)) ∧
    ((s.captureUnit.phase = .receiving ∨ s.captureUnit.phase = .finishing) → s.captureUnit.filling = none →
      exec (.line pixels) s = .next { s with captureUnit := { s.captureUnit with heldBack := [.line pixels] } })) ∧
  (∀ (s : State) (i : Instr) (m : LaneMessage) (first pixels : List Byte) (rest : List LaneMessage), down s = false →
    s.captureUnit.heldBack = .line first :: rest →
    (s.captureUnit.phase = .receiving ∨ s.captureUnit.phase = .finishing) → s.captureUnit.filling = none →
    ((i = .line pixels ∧ m = .line pixels) ∨ (i = .pageBegin ∧ m = .pageBegin) ∨ (i = .pageEnd ∧ m = .pageEnd) ∨
      (i = .scanAbort ∧ m = .scanAbort)) →
    exec i s = .next { s with captureUnit := { s.captureUnit with heldBack := .line first :: rest ++ [m] } }) ∧
  (∀ (s : State) (first : List Byte), down s = false → s.pending = [] → s.retentionUnit.walk = none →
    s.captureUnit.heldBack = [.line first] → (s.captureUnit.phase = .unbound ∨ s.captureUnit.phase = .waiting) →
    step s = .next { s with captureUnit := { s.captureUnit with
      discarded := min 65535 (s.captureUnit.discarded + 1), heldBack := [] } })

/-- R145, R146: the 64th line of a band hands it off, to the lowest free descriptor and the first fit of extents. -/
def Obligations.FullBandIsHandedOff : Prop :=
  ∀ (s : State) (pixels : List Byte) (store : BandStore) (p : Page) (format : LineFormat) (n b first : Nat),
    down s = false → s.captureUnit.heldBack = [] → s.captureUnit.phase = .receiving →
    s.captureUnit.filling = some store →
    s.captureUnit.page = some p → s.captureUnit.format = some format → s.captureUnit.boundSlot = some n →
    pixels.length = format.pixels * format.bytesPerPixel → store.lines = 63 → p.lines + 1 < 10240 →
    lowestDescriptor b s → risingList 0 s.captureUnit.extents = true →
    isFirstFit first ((64 * format.lineBytes + 65535) / 65536) s.captureUnit.extents →
    ∃ t, exec (.line pixels) s = .next t ∧
      bandHandedOff n b first ⟨64, store.bytes ++ pixels⟩ p format s t ∧
      t.captureUnit.phase = .receiving ∧ t.captureUnit.page = some ⟨p.number, p.lines + 1, p.bands + 1⟩ ∧
      onlyParts [.capture, .hold] s t

/-- R141: the line that brings a page to 10,240 lines ends it, kept: its band is handed off, the port is FINISHING,
and CAPTURE_STOP KEPT is sent; LINE_LIMIT finds the same page, if it is still RECEIVING (log 15). -/
def Obligations.PageEndsAtTheLineLimit : Prop :=
  ∀ (s : State) (pixels : List Byte) (store : BandStore) (p : Page) (format : LineFormat) (n b first : Nat),
    down s = false → s.captureUnit.phase = .receiving → s.captureUnit.filling = some store →
    s.captureUnit.page = some p → s.captureUnit.format = some format → s.captureUnit.boundSlot = some n →
    lowestDescriptor b s → risingList 0 s.captureUnit.extents = true →
    (p.lines < 10240 → exec .lineLimit s = .next s) ∧
    (s.captureUnit.heldBack = [] → pixels.length = format.pixels * format.bytesPerPixel → store.lines = 63 →
      p.lines = 10239 →
      isFirstFit first ((64 * format.lineBytes + 65535) / 65536) s.captureUnit.extents →
      ∃ t, exec (.line pixels) s = .next t ∧
        bandHandedOff n b first ⟨64, store.bytes ++ pixels⟩ p format s t ∧
        t.captureUnit.phase = .finishing ∧ t.captureUnit.page = some ⟨p.number, 10240, p.bands + 1⟩ ∧
        t.captureUnit.status = s.captureUnit.status ++ [[0x03, 0]] ∧ onlyParts [.capture, .hold] s t) ∧
    (10240 ≤ p.lines → 0 < store.lines →
      isFirstFit first ((store.lines * format.lineBytes + 65535) / 65536) s.captureUnit.extents →
      ∃ t, exec .lineLimit s = .next t ∧ bandHandedOff n b first store p format s t ∧
        t.captureUnit.phase = .finishing ∧ t.captureUnit.status = s.captureUnit.status ++ [[0x03, 0]] ∧
        onlyParts [.capture, .hold] s t)

/-- R44, R146, R148: a band for which no descriptor or no run of extents is free takes nothing, whether its 64th line,
the line limit or PAGE_END hands it off (R141, R142); the page is dropped for exhaustion, its job is stopped with
IMAGE_FULL, and IMAGE_FULL is raised. R130, R149: SCAN_ABORT drops the page in capture and stops its job, with no
CAPTURE_STOP; with no page in capture it is discarded. A STOPPED job keeps its first reason (R44); a CLOSING one
settles (R48, R148). A message that follows a line held back waits behind it (log 29), so nothing is held back here. -/
def Obligations.DroppedPageStopsItsJob : Prop :=
  (∀ (s : State) (ev : Instr) (pixels : List Byte) (store : BandStore) (p : Page) (format : LineFormat)
      (n k count : Nat) (j : Job),
      down s = false → s.captureUnit.heldBack = [] → s.captureUnit.phase = .receiving →
      s.captureUnit.filling = some store → s.captureUnit.format = some format →
      ((ev = .line pixels ∧ pixels.length = format.pixels * format.bytesPerPixel ∧ store.lines = 63 ∧
          count = (64 * format.lineBytes + 65535) / 65536) ∨
        ((ev = .pageEnd ∨ (ev = .lineLimit ∧ 10240 ≤ p.lines)) ∧ 0 < p.lines ∧ 0 < store.lines ∧
          count = (store.lines * format.lineBytes + 65535) / 65536)) →
      ((∀ b, b < 4096 → (descriptor s b).isSome) ∨
        (risingList 0 s.captureUnit.extents = true ∧
          ∀ c, c + count ≤ 16384 → ∃ e ∈ s.captureUnit.extents, c ≤ e ∧ e < c + count)) →
      (capturing n k j p s →
        ∃ t, exec ev s = .next t ∧ pageDropped n k j p .imageFull [[0x03, 1]] s t ∧
          raised (stopNotices j [.imageFull]) s t ∧ onlyParts [.capture, .hold, .job, .notice] s t) ∧
      (∀ i, closing n k i j p s →
        ∃ t, exec ev s = .next t ∧ closingDropped n k i j p [[0x03, 1]] [.imageFull] s t)) ∧
  (∀ (s : State), down s = false → s.captureUnit.heldBack = [] →
      (s.captureUnit.page = none → exec .scanAbort s = .next s) ∧
      (∀ n k j p, capturing n k j p s →
        ∃ t, exec .scanAbort s = .next t ∧ pageDropped n k j p .scannerAbort [] s t ∧
          raised (stopNotices j []) s t ∧ onlyParts [.capture, .hold, .job, .notice] s t) ∧
      (∀ n k i j p, closing n k i j p s →
        ∃ t, exec .scanAbort s = .next t ∧ closingDropped n k i j p [] [] s t))

/-- R130, R142, R143: PAGE_END hands off the lines that are left and the port is FINISHING, whatever the state of the
page's job; with every band already written the page completes at once and is charged (log 21), and a CLOSING job then
settles; a page of no lines is dropped; outside RECEIVING it is discarded. A message that follows a line held back
waits behind it (log 29), so nothing is held back here. -/
def Obligations.PageEndFinishesThePage : Prop :=
  ∀ (s : State) (store : BandStore) (p : Page) (format : LineFormat) (n k i : Nat) (j : Job), down s = false →
    s.captureUnit.heldBack = [] →
    (s.captureUnit.phase ≠ .receiving → exec .pageEnd s = .next s) ∧
    (s.captureUnit.phase = .receiving → s.captureUnit.filling = some store → s.captureUnit.format = some format →
      capturing n k j p s → j.owner = some i →
      (0 < p.lines → store.lines = 0 → s.captureUnit.handedOff = [] →
        ∃ t, exec .pageEnd s = .next t ∧ pageCompleted n k i j s t ∧
          t.captureUnit = { s.captureUnit with phase := .waiting, page := none } ∧
          onlyParts [.capture, .hold, .job, .account, .retention] s t) ∧
      (p.lines = 0 →
        ∃ t, exec .pageEnd s = .next t ∧ pageDropped n k j p .scannerAbort [[0x03, 1]] s t ∧
          raised (stopNotices j []) s t ∧ onlyParts [.capture, .hold, .job, .notice] s t)) ∧
    (s.captureUnit.phase = .receiving → s.captureUnit.filling = some store → s.captureUnit.format = some format →
      s.captureUnit.page = some p → s.captureUnit.boundSlot = some n → 0 < p.lines →
      (store.lines = 0 → s.captureUnit.handedOff ≠ [] →
        exec .pageEnd s = .next { s with captureUnit := { s.captureUnit with phase := .finishing } }) ∧
      (∀ b first, 0 < store.lines → lowestDescriptor b s → risingList 0 s.captureUnit.extents = true →
        isFirstFit first ((store.lines * format.lineBytes + 65535) / 65536) s.captureUnit.extents →
        ∃ t, exec .pageEnd s = .next t ∧ bandHandedOff n b first store p format s t ∧
          t.captureUnit.phase = .finishing ∧ t.captureUnit.page = some ⟨p.number, p.lines, p.bands + 1⟩ ∧
          t.captureUnit.status = s.captureUnit.status ∧ onlyParts [.capture, .hold] s t)) ∧
    (s.captureUnit.phase = .receiving → s.captureUnit.filling = some store → closing n k i j p s →
      (0 < p.lines → store.lines = 0 → s.captureUnit.handedOff = [] →
        ∃ t, exec .pageEnd s = .next t ∧ closingCompleted n k i j s t ∧ bandsFreed [] s t ∧
          onlyParts [.account, .capture, .hold, .job, .notice, .retention] s t) ∧
      (p.lines = 0 → ∃ t, exec .pageEnd s = .next t ∧ closingDropped n k i j p [[0x03, 1]] [] s t)) ∧
    (s.captureUnit.phase = .receiving → s.captureUnit.filling = none → s.captureUnit.page = some p → 0 < p.lines →
      s.captureUnit.handedOff ≠ [] →
      exec .pageEnd s = .next { s with captureUnit := { s.captureUnit with phase := .finishing } })

/-- R143, R145, R147: the end of a band's write stores its ciphertext in its run and nowhere else, records its tag, and
frees its store; the last band of a page in FINISHING completes the page, and a CLOSING job then settles. That the
bytes appear whole at this event is log 9; that a line held back until a store was free is taken in this same event is
log 29. -/
def Obligations.WrittenBandStandsInItsRun : Prop :=
  ∀ (s : State) (n : Nat) (h : HandedOff) (rest : List HandedOff) (d : Descriptor), down s = false →
    s.captureUnit.handedOff = h :: rest → s.captureUnit.boundSlot = some n →
    descriptor s h.descriptor = some d →
    (∀ first p format, s.captureUnit.heldBack = [.line first] → s.captureUnit.phase = .receiving →
      s.captureUnit.filling = none → s.captureUnit.page = some p → s.captureUnit.format = some format →
      first.length = format.pixels * format.bytesPerPixel → p.lines + 1 < 10240 →
      ∃ t, exec .bandWriteEnd s = .next t ∧
        t.captureUnit = { s.captureUnit with
          descriptors := t.captureUnit.descriptors, handedOff := rest, filling := some ⟨1, first⟩
          page := some { p with lines := p.lines + 1 }, heldBack := [] } ∧
        onlyParts [.capture, .image] s t) ∧
    (s.captureUnit.heldBack = [] → ∃ t, exec .bandWriteEnd s = .next t ∧
      Memory.readBytes t.imageMemory.cells (d.firstExtent * 65536) h.bytes.length =
        bandCrypt (keySlot s n).key n d h.bytes ∧
      (∀ a, a < d.firstExtent * 65536 ∨ d.firstExtent * 65536 + h.bytes.length ≤ a →
        Memory.read t.imageMemory.cells a = Memory.read s.imageMemory.cells a) ∧
      t.imageMemory.selfRefresh = s.imageMemory.selfRefresh ∧
      ((s.captureUnit.phase ≠ .finishing ∨ rest ≠ []) →
        descriptor t h.descriptor = some { d with
          tag := some (bandTag (keySlot s n).key n d (bandCrypt (keySlot s n).key n d h.bytes)) } ∧
        (∀ b, b ≠ h.descriptor → descriptor t b = descriptor s b) ∧
        t.captureUnit = { s.captureUnit with
          descriptors := t.captureUnit.descriptors, handedOff := rest
          filling := some (s.captureUnit.filling.getD ⟨0, []⟩) } ∧
        onlyParts [.capture, .image] s t) ∧
      (∀ k i j p, s.captureUnit.phase = .finishing → rest = [] → capturing n k j p s → j.owner = some i →
        descriptor t h.descriptor = some { d with
          tag := some (bandTag (keySlot s n).key n d (bandCrypt (keySlot s n).key n d h.bytes)) } ∧
        (∀ b, b ≠ h.descriptor → descriptor t b = descriptor s b) ∧
        t.captureUnit = { s.captureUnit with
          descriptors := t.captureUnit.descriptors, handedOff := []
          filling := some (s.captureUnit.filling.getD ⟨0, []⟩), phase := .waiting, page := none } ∧
        pageCompleted n k i j s t ∧
        onlyParts [.capture, .image, .hold, .job, .account, .retention] s t) ∧
      (∀ k i j p, s.captureUnit.phase = .finishing → rest = [] → closing n k i j p s →
        descriptor t h.descriptor = some { d with
          tag := some (bandTag (keySlot s n).key n d (bandCrypt (keySlot s n).key n d h.bytes)) } ∧
        (∀ b, b ≠ h.descriptor → descriptor t b = descriptor s b) ∧
        closingCompleted n k i j s t ∧
        onlyParts [.capture, .image, .hold, .job, .account, .notice, .retention] s t))

/-! ### Held scans (07) -/

/-- R22, R23, R163: a RELEASE_SCAN that passes its checks begins the release at the first band; the checks refuse in
their order, an EMPTY slot with BAD_STATE as any that is not HELD; a credential that does not match counts a failed
attempt, and the third locks the owner out. -/
def Obligations.ReleaseNeedsTheOwnersCredential : Prop :=
  (∀ (s : State) (r : Request) (n : Nat) (credential : List Byte),
    ready s → carries r 36 ([byteOf n, byteOf credential.length] ++ credential) → n < 48 →
    8 ≤ credential.length → credential.length ≤ 32 →
    (standby s = true →
      ∃ t, exec (.releaseScan r) s = .next t ∧ answers t .standby [] ∧ onlyParts [.control] s t) ∧
    (standby s = false → (keySlot s n).state ≠ .held →
      ∃ t, exec (.releaseScan r) s = .next t ∧ answers t .badState [] ∧ onlyParts [.control] s t)) ∧
  ∀ (s : State) (r : Request) (n i : Nat) (x : KeySlot) (a : Account) (credential : List Byte),
    readyInRun s → Table.wfDefault .blank s.holdUnit.slots = true →
    carries r 36 ([byteOf n, byteOf credential.length] ++ credential) → n < 48 →
    8 ≤ credential.length → credential.length ≤ 32 → keySlot s n = x → x.state = .held → x.owner = some i →
    account s i = a →
    (∀ why,
      ((x.damaged = true ∧ why = .damaged) ∨
        (x.damaged = false ∧
          ((faulted s = true ∧ why = .faulted) ∨
            (faulted s = false ∧
              ((a.state = .suspended .byHost ∧ why = .badState) ∨
                (a.state = .suspended .lockout ∧ why = .lockedOut) ∨
                (a.state = .active ∧
                  (((∃ m, (keySlot s m).state = .releasing) ∧ why = .busy) ∨
                    ((∀ m, (keySlot s m).state ≠ .releasing) ∧ a.digest = none ∧
                      why = Response.noCredential)))))))) →
      ∃ t, exec (.releaseScan r) s = .next t ∧ answers t why [] ∧ onlyParts [.control] s t) ∧
    (∀ d, x.damaged = false → faulted s = false → a.state = .active →
      (∀ m, (keySlot s m).state ≠ .releasing) → a.digest = some d →
      (d = ⟨credential⟩ →
        ∃ t, exec (.releaseScan r) s = .next t ∧
          answers t .accepted (pad4 ([byteOf n] ++ le 2 x.bands.length ++ le 4 x.totalBytes)) ∧
          keySlot t n = { x with state := .releasing, release := some ⟨0, 0, x.totalBytes⟩ } ∧
          (∀ m, m ≠ n → keySlot t m = keySlot s m) ∧
          t.holdUnit = { s.holdUnit with slots := t.holdUnit.slots, streamer := .reading } ∧
          account t i = { a with failed := 0 } ∧ onlyAccount i s t ∧
          onlyParts [.control, .account, .hold, .retention] s t) ∧
      (d ≠ ⟨credential⟩ → a.failed < 2 →
        ∃ t, exec (.releaseScan r) s = .next t ∧ answers t .credentialMismatch [] ∧
          account t i = { a with failed := a.failed + 1 } ∧ onlyAccount i s t ∧
          onlyParts [.control, .account, .retention] s t) ∧
      (d ≠ ⟨credential⟩ → a.failed = 2 →
        ∃ t, exec (.releaseScan r) s = .next t ∧ answers t .credentialMismatch [] ∧
          account t i = { a with failed := 3, state := .suspended .lockout, preserved := false } ∧
          onlyAccount i s t ∧
          t.jobUnit = { s.jobUnit with
            stopRequests := s.jobUnit.stopRequests ++ stopsFor i .accountSuspended s } ∧
          raised [.lockout] s t ∧ onlyParts [.control, .account, .job, .notice, .retention] s t))

/-- R164, R168: a band whose tag matches is decrypted into the band buffer; one whose tag differs, or whose read
fails, ends the release with the slot HELD and damaged, a fault and RELEASE_ENDED, and nothing of it is released. -/
def Obligations.BandIsReleasedOnlyIfItsTagMatches : Prop :=
  ∀ (s : State) (n b position offset remaining : Nat) (x : KeySlot) (d : Descriptor) (outcome : BandRead),
    down s = false → s.holdUnit.streamer = .reading → releasingSlot s = some n → keySlot s n = x →
    x.release = some ⟨position, offset, remaining⟩ → x.bands[position]? = some b → descriptor s b = some d →
    (∀ changed cipher, outcome = .returned changed →
      cipher = changed.foldl (fun l c => l.set c.1 c.2)
        (Memory.readBytes s.imageMemory.cells (d.firstExtent * 65536) d.length) →
      d.tag = some (bandTag x.key n d cipher) →
      exec (.bandReadEnd outcome) s = .next { s with holdUnit := { s.holdUnit with
        streamer := .moving, bandBuffer := bandCrypt x.key n d cipher } }) ∧
    (∀ kind,
      ((outcome = .uncorrectable ∧ kind = FaultKind.imageMemoryError) ∨
        (∃ changed, outcome = .returned changed ∧
          d.tag ≠ some (bandTag x.key n d (changed.foldl (fun l c => l.set c.1 c.2)
            (Memory.readBytes s.imageMemory.cells (d.firstExtent * 65536) d.length))) ∧
          kind = .bandIntegrity)) →
      ∃ t, exec (.bandReadEnd outcome) s = .next t ∧
        keySlot t n = { x with state := .held, damaged := true, expiryDue := false, release := none } ∧
        (∀ m, m ≠ n → keySlot t m = keySlot s m) ∧ streamStopped t ∧
        t.holdUnit.holdList = s.holdUnit.holdList ∧ t.holdUnit.minute = s.holdUnit.minute ∧
        faultTaken
          { kind := kind, minute := s.holdUnit.minute
            account := (account s (x.owner.getD 0)).number, slot := some n, band := some position } s t ∧
        noticed [.releaseEnded] s t ∧ onlyParts [.hold, .notice] s t)

/-- R165 to R167, R188: a move takes bytes in order from the buffer to the FIFO and no more than it has space for
(how many is the operand's, log 24); a read takes up to 4 bytes from its head, zeros where there are none; the read
of the last byte of a draining release erases the slot and raises RELEASE_DONE. -/
def Obligations.StreamKeepsTheOrderOfTheBytes : Prop :=
  ∀ (s : State), down s = false →
    (∀ (n count m position offset remaining : Nat) (x : KeySlot), s.holdUnit.streamer = .moving →
      releasingSlot s = some n → keySlot s n = x → x.release = some ⟨position, offset, remaining⟩ →
      m = min count (min (16384 - s.holdUnit.fifo.length) (s.holdUnit.bandBuffer.length - offset)) →
      ∃ t, exec (.streamMove count) s = .next t ∧
        t.holdUnit.fifo = s.holdUnit.fifo ++ (s.holdUnit.bandBuffer.drop offset).take m ∧
        (∀ k, k ≠ n → keySlot t k = keySlot s k) ∧ t.holdUnit.holdList = s.holdUnit.holdList ∧
        (offset + m < s.holdUnit.bandBuffer.length →
          keySlot t n = { x with release := some ⟨position, offset + m, remaining - m⟩ } ∧
          t.holdUnit.bandBuffer = s.holdUnit.bandBuffer ∧ t.holdUnit.streamer = .moving) ∧
        (s.holdUnit.bandBuffer.length ≤ offset + m →
          keySlot t n = { x with release := some ⟨position + 1, 0, remaining - m⟩ } ∧
          t.holdUnit.bandBuffer = [] ∧
          t.holdUnit.streamer = (if position + 1 < x.bands.length then .reading else .draining)) ∧
        onlyParts [.hold] s t) ∧
    ((s.holdUnit.streamer ≠ .draining ∨ s.holdUnit.fifo = [] ∨ 4 < s.holdUnit.fifo.length) →
      exec .streamPortRead s = .next { s with
        holdUnit := { s.holdUnit with fifo := s.holdUnit.fifo.drop 4 }
        controlPort := { s.controlPort with streamWord := BitVec.ofNat 32 (ofLe (s.holdUnit.fifo.take 4)) } }) ∧
    (∀ n, s.holdUnit.streamer = .draining → s.holdUnit.fifo ≠ [] → s.holdUnit.fifo.length ≤ 4 →
      releasingSlot s = some n → (keySlot s n).state = .releasing →
      ∃ t, exec .streamPortRead s = .next t ∧
        t.controlPort = { s.controlPort with streamWord := BitVec.ofNat 32 (ofLe s.holdUnit.fifo) } ∧
        slotErased n s t ∧ streamStopped t ∧ raised [.releaseDone] s t ∧
        onlyParts [.control, .account, .capture, .hold, .notice] s t)

/-- R161, R170, R172, R173: CANCEL_RELEASE returns the slot to HELD, or erases it if its expiry is due; DELETE_SCAN
erases a HELD slot with no notice and a RELEASING one with RELEASE_ENDED; both refuse a slot in another state. -/
def Obligations.CancelAndDeleteEndAHeldScan : Prop :=
  ∀ (s : State) (r : Request) (n : Nat) (x : KeySlot), ready s → carries r 4 [byteOf n] → n < 48 → keySlot s n = x →
    (standby s = true →
      ∃ t, exec (.cancelRelease r) s = .next t ∧ answers t .standby [] ∧ onlyParts [.control] s t) ∧
    (standby s = false → x.state ≠ .releasing →
      ∃ t, exec (.cancelRelease r) s = .next t ∧ answers t .badState [] ∧ onlyParts [.control] s t) ∧
    (standby s = false → x.state = .releasing → x.expiryDue = false →
      ∃ t, exec (.cancelRelease r) s = .next t ∧ answers t .ok [2, 0, 0, 0] ∧
        keySlot t n = { x with state := .held, release := none } ∧ (∀ m, m ≠ n → keySlot t m = keySlot s m) ∧
        streamStopped t ∧ t.holdUnit.holdList = s.holdUnit.holdList ∧ raised [.releaseEnded] s t ∧
        onlyParts [.control, .hold, .notice] s t) ∧
    (standby s = false → x.state = .releasing → x.expiryDue = true →
      ∃ t, exec (.cancelRelease r) s = .next t ∧ answers t .ok [0, 0, 0, 0] ∧ slotErased n s t ∧ streamStopped t ∧
        raised [.releaseEnded, .scanExpired] s t ∧
        onlyParts [.control, .account, .capture, .hold, .notice] s t) ∧
    ((x.state = .empty ∨ x.state = .capturing) →
      ∃ t, exec (.deleteScan r) s = .next t ∧ answers t .badState [] ∧ onlyParts [.control] s t) ∧
    (x.state = .held →
      ∃ t, exec (.deleteScan r) s = .next t ∧ answers t .ok [] ∧ slotErased n s t ∧
        t.holdUnit.fifo = s.holdUnit.fifo ∧ t.holdUnit.streamer = s.holdUnit.streamer ∧
        onlyParts [.control, .account, .capture, .hold] s t) ∧
    (x.state = .releasing →
      ∃ t, exec (.deleteScan r) s = .next t ∧ answers t .ok [] ∧ slotErased n s t ∧ streamStopped t ∧
        raised [.releaseEnded] s t ∧ onlyParts [.control, .account, .capture, .hold, .notice] s t)

/-- R158, R160, R161, R172: the tick raises the minute counter, which stops at its maximum, and in the same event the
walk erases every slot from the head of the hold list whose expiry minute has come, with its bands and their extents,
and marks a RELEASING one. In a warm reset the counter rises, and one walk is due at its end (it is made by
HEALTH_TEST_END, of which WarmResetKeepsTheRetainedDomain speaks); with the retained supply lost, and in a cold start,
the counter does not run. That a walk still due is made by EXPIRY_WALK is log 14. -/
def Obligations.ExpiryWalkErasesWhatIsDue : Prop :=
  (∀ (s : State) (m : Nat) (due erased : List Nat), down s = false → s.holdUnit.holdList.Nodup →
      m = min 4294967295 (s.holdUnit.minute + 1) →
      due = s.holdUnit.holdList.takeWhile (fun n => decide (expiryOf s n ≤ m)) →
      erased = due.filter (fun n => (keySlot s n).state != .releasing) →
      ∃ t, exec .minuteTick s = .next t ∧ t.holdUnit.minute = m ∧ t.holdUnit.walkDue = false ∧
        walked due erased s t) ∧
  (∀ (s : State) (pin dip : Bool) (last : ResetCause), s.retentionUnit.supply = .holding →
      s.retentionUnit.reset = .warm pin dip last →
      exec .minuteTick s = .next { s with holdUnit := { s.holdUnit with
        minute := min 4294967295 (s.holdUnit.minute + 1), walkDue := true } }) ∧
  (∀ s : State, s.retentionUnit.supply = .lost ∨ s.retentionUnit.reset = .cold → exec .minuteTick s = .next s) ∧
  (∀ s : State, down s = false → s.holdUnit.walkDue = false → exec .expiryWalk s = .next s) ∧
  (∀ (s : State) (due erased : List Nat), down s = false → s.holdUnit.walkDue = true → s.holdUnit.holdList.Nodup →
      due = s.holdUnit.holdList.takeWhile (fun n => decide (expiryOf s n ≤ s.holdUnit.minute)) →
      erased = due.filter (fun n => (keySlot s n).state != .releasing) →
      ∃ t, exec .expiryWalk s = .next t ∧ t.holdUnit.minute = s.holdUnit.minute ∧ t.holdUnit.walkDue = false ∧
        walked due erased s t)

/-! ### Notices and faults (09) -/

/-- R193, R194, R196 to R199, R201: CLEAR_NOTICES answers and clears the notices named, SET_NOTICE_ENABLE replaces the
enable sets, a raise sets one flag; each sends an interrupt exactly when the overall summary goes from no to yes;
a fault taken fills the empty capture and sends one, else sets MORE; CLEAR_FAULT empties the capture. -/
def Obligations.NoticesAndFaultsInterruptOnTheirEdges : Prop :=
  (∀ (s : State) (r : Request) (named : PerGroup), ready s → named.legal = true → carries r 20 (packNotices named) →
    (∃ t, exec (.clearNotices r) s = .next t ∧
      answers t .ok (packNotices (PerGroup.map2 (· &&& ·) s.noticeUnit.pending named)) ∧
      (∀ n, t.noticeUnit.pending.has n = (s.noticeUnit.pending.has n && !named.has n)) ∧
      t.noticeUnit.enabled = s.noticeUnit.enabled ∧ t.noticeUnit.fault = s.noticeUnit.fault ∧
      t.noticeUnit.more = s.noticeUnit.more ∧ t.noticeUnit.interrupts = s.noticeUnit.interrupts ∧
      onlyParts [.control, .notice] s t) ∧
    (∃ t, exec (.setNoticeEnable r) s = .next t ∧ answers t .ok [] ∧
      t.noticeUnit = { s.noticeUnit with
        enabled := named
        interrupts := s.noticeUnit.interrupts +
          if s.noticeUnit.overall = false ∧ t.noticeUnit.overall = true then 1 else 0 } ∧
      onlyParts [.control, .notice] s t)) ∧
  (∀ (s : State) (n : Notice), raised [n] s (raise n s) ∧
    (raise n s).noticeUnit.interrupts = s.noticeUnit.interrupts +
      if s.noticeUnit.overall = false ∧ s.noticeUnit.enabled.has n = true then 1 else 0) ∧
  (∀ (s : State) (f : FaultRecord), faultTaken f s (captureFault f s) ∧
    (captureFault f s).noticeUnit.interrupts = s.noticeUnit.interrupts +
      (if s.noticeUnit.fault = none then 1 else 0) ∧
    (captureFault f s).noticeUnit.pending = s.noticeUnit.pending) ∧
  (∀ (s : State) (r : Request), ready s → carries r 0 [] →
    ∃ t, exec (.clearFault r) s = .next t ∧ answers t .ok (pad4 (faultBody s.noticeUnit)) ∧
      t.noticeUnit = { s.noticeUnit with fault := none, more := false } ∧ onlyParts [.control, .notice] s t)

/-! ### Retention, preservation and power states (10) -/

/-- R206 to R209: PRESERVE_ACCOUNTS starts a walk; each write takes the imaged fields as they stand at its start, its
completion puts them into the image and sets preserved unless the entry changed meanwhile, and the position moves
on; the last write raises PRESERVE_DONE, with PRESERVE_DIRTY where due; a failed write ends the walk with a fault and
leaves the image as it was. R4, R207, R208: an update of an account clears preserved when a field of R4 takes another
value, and then makes the write of that entry in progress stale, or the walk dirty if it has written the entry. When a
write starts is the model's choice: at a step with nothing waiting (log 3), which also sends what the scanner held back
(log 29), here nothing. That the fault of a failed write carries the number the entry holds at the failure is the
model's reading of R209 (DEDUCED, log 3), unsafe where the entry changed while it was being written. -/
def Obligations.PreserveWalkWritesTheImage : Prop :=
  (∀ a b : Account, sameForImage a b = true ↔
      a.balance = b.balance ∧ a.held = b.held ∧ a.state = b.state ∧ a.group = b.group ∧
      a.unlimited = b.unlimited ∧ a.lifetime = b.lifetime ∧ a.countSaturated = b.countSaturated ∧
      a.creditClipped = b.creditClipped ∧ a.number = b.number ∧ a.digest = b.digest) ∧
  (∀ (s : State) (i : Nat) (f : Account → Account),
      accountBecomes i (f (account s i)) s (updateAccount i f s) ∧
      (∀ w, s.retentionUnit.walk = some w → sameForImage (account s i) (f (account s i)) = false →
        (w.position = .account i → w.writing.isSome →
          (updateAccount i f s).retentionUnit.walk = some { w with stale := true }) ∧
        (w.position = .account i → w.writing = none → (updateAccount i f s).retentionUnit.walk = some w) ∧
        (∀ p, w.position = .account p → i < p →
          (updateAccount i f s).retentionUnit.walk = some { w with dirty := true }) ∧
        (∀ p, w.position = .account p → p < i → (updateAccount i f s).retentionUnit.walk = some w) ∧
        (w.position = .groups → (updateAccount i f s).retentionUnit.walk = some w))) ∧
  (∀ s : State, s.pending = [] → s.captureUnit.heldBack = [] →
      (down s = true → step s = .next s) ∧
      (s.retentionUnit.walk = none → step s = .next s) ∧
      (∀ w, s.retentionUnit.walk = some w → w.writing.isSome → step s = .next s) ∧
      (∀ w, down s = false → s.retentionUnit.walk = some w → w.writing = none → w.position = .groups →
        step s = .next { s with retentionUnit := { s.retentionUnit with
          walk := some { w with writing := some (.groups s.accountUnit.groups), stale := false } } }) ∧
      (∀ w i, down s = false → s.retentionUnit.walk = some w → w.writing = none → w.position = .account i →
        step s = .next { s with retentionUnit := { s.retentionUnit with
          walk := some { w with
            writing := some (.account
              { state := (account s i).state, number := (account s i).number, group := (account s i).group
                unlimited := (account s i).unlimited
                available :=
                  ⟨(account s i).balance.mono + (account s i).held.mono,
                   (account s i).balance.colour + (account s i).held.colour,
                   (account s i).balance.scan + (account s i).held.scan⟩
                lifetime := (account s i).lifetime, countSaturated := (account s i).countSaturated
                creditClipped := (account s i).creditClipped, digest := (account s i).digest })
            stale := false } } })) ∧
  (∀ (s : State) (r : Request), ready s → carries r 0 [] →
    (standby s = true →
      ∃ t, exec (.preserveAccounts r) s = .next t ∧ answers t .standby [] ∧ onlyParts [.control] s t) ∧
    (standby s = false → s.retentionUnit.walk.isSome →
      ∃ t, exec (.preserveAccounts r) s = .next t ∧ answers t .busy [] ∧ onlyParts [.control] s t) ∧
    (standby s = false → s.retentionUnit.walk = none →
      ∃ t, exec (.preserveAccounts r) s = .next t ∧ answers t .accepted [] ∧
        t.retentionUnit = { s.retentionUnit with
          walk := some { position := .groups, writing := none, stale := false, dirty := false } } ∧
        onlyParts [.control, .retention] s t)) ∧
  (∀ (s : State) (w : Walk), down s = false → s.retentionUnit.walk = some w →
    (∀ p, w.position = .groups → w.writing = some (.groups p) →
      ∃ t, exec (.nvWriteEnd true) s = .next t ∧
        t.retentionUnit = { s.retentionUnit with
          nvGroups := some p
          walk := some { w with position := .account 0, writing := none, dirty := w.dirty || w.stale } } ∧
        t.accountUnit = { s.accountUnit with groupsPreserved := !w.stale || s.accountUnit.groupsPreserved } ∧
        onlyParts [.account, .retention] s t) ∧
    (∀ i v, w.position = .account i → w.writing = some (.account v) →
      ∃ t, exec (.nvWriteEnd true) s = .next t ∧
        Table.find t.retentionUnit.nvAccounts i = some v ∧
        (∀ j, j ≠ i → Table.find t.retentionUnit.nvAccounts j = Table.find s.retentionUnit.nvAccounts j) ∧
        account t i = { account s i with preserved := !w.stale || (account s i).preserved } ∧
        (∀ j, j ≠ i → account t j = account s j) ∧
        (i < 511 →
          t.retentionUnit = { s.retentionUnit with
            nvAccounts := t.retentionUnit.nvAccounts
            walk := some { w with position := .account (i + 1), writing := none, dirty := w.dirty || w.stale } } ∧
          onlyParts [.account, .retention] s t) ∧
        (i = 511 →
          t.retentionUnit = { s.retentionUnit with nvAccounts := t.retentionUnit.nvAccounts, walk := none } ∧
          raised (if w.dirty || w.stale then [.preserveDone, .preserveDirty] else [.preserveDone]) s t ∧
          onlyParts [.account, .retention, .notice] s t)) ∧
    (w.writing.isSome →
      ∃ t, exec (.nvWriteEnd false) s = .next t ∧ t.retentionUnit = { s.retentionUnit with walk := none } ∧
        (w.position = .groups → t.accountUnit = { s.accountUnit with groupsPreserved := false }) ∧
        (∀ i, w.position = .account i → account t i = { account s i with preserved := false } ∧
          (∀ j, j ≠ i → account t j = account s j)) ∧
        faultTaken
          { kind := .nvWriteFailed, minute := s.holdUnit.minute
            account := match w.position with | .groups => none | .account i => (account s i).number
            slot := none, band := none } s t ∧
        noticed [] s t ∧ onlyParts [.account, .retention, .notice] s t))

/-- R110, R211, R212: ENTER_STANDBY is refused while work is in progress, else it enters STANDBY and puts image memory
in self-refresh; EXIT_STANDBY senses every station afresh, begins an identity read where a cartridge is seated, and
raises STATION_CHANGED where a state changes. -/
def Obligations.StandbyIsEnteredIdleAndLeftByProbing : Prop :=
  ∀ (s : State) (r : Request), ready s → carries r 0 [] →
    (standby s = true →
      ∃ t, exec (.enterStandby r) s = .next t ∧ answers t .standby [] ∧ onlyParts [.control] s t) ∧
    (standby s = false →
      ((∃ e ∈ s.jobUnit.jobs, e.2.state = .active ∨ e.2.state = .closing) ∨ s.sheetLink.sheets ≠ [] ∨
        (∃ e ∈ s.holdUnit.slots, e.2.state = .capturing ∨ e.2.state = .releasing) ∨
        (∃ st, (station s st).inFlight.isSome ∨ (station s st).queue ≠ []) ∨ s.retentionUnit.walk.isSome) →
      ∃ t, exec (.enterStandby r) s = .next t ∧ answers t .busy [] ∧ onlyParts [.control] s t) ∧
    (standby s = false → (∀ e ∈ s.jobUnit.jobs, e.2.state ≠ .active ∧ e.2.state ≠ .closing) →
      s.sheetLink.sheets = [] → (∀ e ∈ s.holdUnit.slots, e.2.state ≠ .capturing ∧ e.2.state ≠ .releasing) →
      (∀ st, (station s st).inFlight = none ∧ (station s st).queue = []) → s.retentionUnit.walk = none →
      ∃ t, exec (.enterStandby r) s = .next t ∧ answers t .ok [] ∧
        t.retentionUnit = { s.retentionUnit with power := .standby } ∧
        t.imageMemory = { s.imageMemory with selfRefresh := true } ∧ onlyParts [.control, .retention, .image] s t) ∧
    (standby s = false →
      ∃ t, exec (.exitStandby r) s = .next t ∧ answers t .badState [] ∧ onlyParts [.control] s t) ∧
    (∀ new : Station → StationState, standby s = true →
      (∀ st, (station s st).inFlight = none ∧ (station s st).queue = []) →
      (∀ st, new st =
        if (s.lines.get st).condition = .shortLow ∨ (s.lines.get st).condition = .shortHigh then .lineFault
        else if (s.lines.get st).presence then .probing else .empty) →
      ∃ t, exec (.exitStandby r) s = .next t ∧ answers t .ok [] ∧
        (∀ st, station t st = { station s st with
          state := new st, presence := (s.lines.get st).presence, condition := (s.lines.get st).condition
          rejectReason := none, inFlight := if new st = .probing then some ⟨.identRead, 1⟩ else none }) ∧
        t.stationUnit.rotation = s.stationUnit.rotation ∧
        t.noticeUnit.pending.has .stationChanged =
          (s.noticeUnit.pending.has .stationChanged || Station.list.any fun st => (station s st).state != new st) ∧
        t.retentionUnit = { s.retentionUnit with power := .run } ∧
        t.imageMemory = { s.imageMemory with selfRefresh := false } ∧
        onlyParts [.control, .station, .job, .notice, .retention, .image] s t)

/-- R29, R203, R204: the loss of the retained supply leaves the image whole (a write cut off has its old or its new
contents); its return begins a cold start, which loads each account by its mark, as FREE where it is RETIRING or its
number stands at a lower index, and leaves every other record at its cold-start value. Two clauses are the model's
choice and no cold-start value of the spec: that image memory is as at reset, its contents dropped and each byte 0
(DESIGN CHOICE, log 9), where R152 says only that they are not used; and that the source is HEALTHY before its test
has ended (DESIGN CHOICE, log 23), where R152 leaves the health to the test. That a return of a supply that holds
changes nothing is log 2 and log 23; that the stop requests, the walk that is due and what the scanner held back are
among what a cold start clears, log 13, log 14 and log 29; that the draws are, log 5, and that the returned outputs
are kept, log 4; that the lines are as they were, log 12. -/
def Obligations.ColdStartLoadsTheImage : Prop :=
  ∀ s : State,
    (s.retentionUnit.supply = .holding → s.retentionUnit.walk = none →
      exec .retainedSupplyLost s = .next { s with retentionUnit := { s.retentionUnit with
        supply := .lost, reset := .none } }) ∧
    (∀ w i v, s.retentionUnit.supply = .holding → s.retentionUnit.walk = some w → w.position = .account i →
      w.writing = some (.account v) →
      ∃ t, exec .retainedSupplyLost s = .next t ∧
        (t.retentionUnit.nvAccounts = s.retentionUnit.nvAccounts ∨
          (Table.find t.retentionUnit.nvAccounts i = some v ∧
            ∀ j, j ≠ i → Table.find t.retentionUnit.nvAccounts j = Table.find s.retentionUnit.nvAccounts j)) ∧
        t.retentionUnit = { s.retentionUnit with
          supply := .lost, reset := .none, walk := none, nvAccounts := t.retentionUnit.nvAccounts } ∧
        onlyParts [.retention, .freeCount] s t) ∧
    (s.retentionUnit.supply = .holding → exec .coldStart s = .next s) ∧
    (s.retentionUnit.supply = .lost → Table.wf s.retentionUnit.nvAccounts = true →
      ∃ t, exec .coldStart s = .next t ∧ t.retentionUnit.supply = .holding ∧ t.retentionUnit.reset = .cold ∧
        t.retentionUnit.power = .run ∧ t.retentionUnit.walk = none ∧
        t.retentionUnit.nvAccounts = s.retentionUnit.nvAccounts ∧
        t.retentionUnit.nvGroups = s.retentionUnit.nvGroups ∧
        (∀ i, Table.find s.retentionUnit.nvAccounts i = none → account t i = Account.free true) ∧
        (∀ i v, Table.find s.retentionUnit.nvAccounts i = some v →
          (v.state = .free → account t i = Account.free true) ∧
          (v.state = .retiring → account t i = Account.free false) ∧
          ((v.state ≠ .free ∧ v.state ≠ .retiring) →
            ((∀ i' v', i' < i → Table.find s.retentionUnit.nvAccounts i' = some v' → v'.state ≠ .free →
                v'.state ≠ .retiring → v'.number.getD 0 ≠ v.number.getD 0) →
              account t i =
                { state := v.state, number := v.number, group := v.group, unlimited := v.unlimited
                  balance := ⟨min v.available.mono 16777215, min v.available.colour 16777215,
                    min v.available.scan 16777215⟩
                  held := .zero, lifetime := v.lifetime, countSaturated := v.countSaturated
                  creditClipped := v.creditClipped || v.available.passes 16777215, digest := v.digest
                  failed := 0, openJobs := 0, heldScans := 0, preserved := !v.available.passes 16777215 }) ∧
            ((∃ i' v', i' < i ∧ Table.find s.retentionUnit.nvAccounts i' = some v' ∧ v'.state ≠ .free ∧
                v'.state ≠ .retiring ∧ v'.number.getD 0 = v.number.getD 0) →
              account t i = Account.free false))) ∧
        (∀ g, groupPolicy t g = match s.retentionUnit.nvGroups with
          | none => ⟨true, true, 4, 8, 240⟩
          | some p => Table.read .default p g) ∧
        t.accountUnit.groupsPreserved = true ∧ t.jobUnit = State.reset.jobUnit ∧
        t.sheetLink = State.reset.sheetLink ∧ t.stationUnit = State.reset.stationUnit ∧
        t.captureUnit = State.reset.captureUnit ∧ t.holdUnit = State.reset.holdUnit ∧
        t.controlPort = State.reset.controlPort ∧ t.noticeUnit.pending = .none ∧
        t.noticeUnit.enabled = .none ∧ t.noticeUnit.fault = none ∧ t.noticeUnit.more = false ∧
        t.retentionUnit.lastReset = .cold ∧ t.imageMemory = State.reset.imageMemory ∧
        t.randomSource = { health := .healthy, draws := [], returned := s.randomSource.returned } ∧
        t.lines = s.lines)

/-- R30, R53, R82, R109, R123, R132, R153, R177, R179, R202, R205: what a warm reset clears and keeps; it lasts while
a cause holds and through the health test, whose end leaves RUN, the last cause, the stations sensed afresh, and
KEYGEN_FAILED captured if the test fails. R210: a walk in flight is abandoned, and the entry it was writing has
preserved no, with its old or its new contents in the image. R177: a RELEASING slot that is overdue is erased, any
other returns to HELD. R158, R202: the walk that ticks in the reset left due is made at its end, with no notice. Which
of this falls to WARM_RESET and which to HEALTH_TEST_END, and that a HEALTH_TEST_END with a cause still holding changes
nothing, is how the model reads R205 (DEDUCED, log 23); the emptied stop requests are log 13, the emptied draws log 5,
and what the scanner held back, log 29. -/
def Obligations.WarmResetKeepsTheRetainedDomain : Prop :=
  (∀ (s : State) (cause : ResetCause), s.retentionUnit.supply = .holding → s.retentionUnit.reset = .none →
    ∃ t, exec (.warmReset cause) s = .next t ∧ down t = true ∧
      t.retentionUnit.reset = .warm (decide (cause = .pin)) (decide (cause = .supplyDip)) cause ∧
      t.controlPort = { phase := .idle, collision := false, commandArea := [], responseArea := [], opening := none
                        streamWord := 0 } ∧
      t.jobUnit = { jobs := [], lastTag := 0, stopRequests := [] } ∧
      t.sheetLink = { sheets := [], badFrames := 0, strayReports := 0, receiver := .idle, answers := [] } ∧
      (∀ st, station t st = { station s st with inFlight := none, queue := [] }) ∧
      t.stationUnit.rotation = { s.stationUnit.rotation with pointer := 0, counter := 0 } ∧
      t.captureUnit.phase = .unbound ∧ t.captureUnit.boundTag = none ∧ t.captureUnit.boundSlot = none ∧
      t.captureUnit.page = none ∧ t.captureUnit.format = none ∧ t.captureUnit.filling = some ⟨0, []⟩ ∧
      t.captureUnit.handedOff = [] ∧ t.captureUnit.discarded = 0 ∧ t.captureUnit.status = [] ∧
      t.captureUnit.heldBack = [] ∧ t.randomSource = { s.randomSource with draws := [] } ∧
      streamStopped t ∧ t.holdUnit.minute = s.holdUnit.minute ∧
      t.noticeUnit.pending = .none ∧ t.noticeUnit.enabled = .none ∧ t.noticeUnit.fault = none ∧
      t.noticeUnit.more = false ∧ t.retentionUnit.walk = none ∧ t.imageMemory.selfRefresh = true ∧
      t.imageMemory.cells = s.imageMemory.cells ∧ t.accountUnit.groups = s.accountUnit.groups ∧
      t.retentionUnit.lastReset = s.retentionUnit.lastReset ∧ t.lines = s.lines ∧
      ((∀ e ∈ s.holdUnit.slots, e.2.state = .held) → canonical s →
        t.holdUnit.slots = s.holdUnit.slots ∧ t.holdUnit.holdList = s.holdUnit.holdList ∧
        t.captureUnit.descriptors = s.captureUnit.descriptors ∧ t.captureUnit.extents = s.captureUnit.extents) ∧
      t.accountUnit.groupsPreserved = (s.accountUnit.groupsPreserved && !cutOff .groups s) ∧
      (∀ i, canonical s →
        account t i =
          if (account s i).state = .retiring then Account.free false
          else
            { (account s i).giveBack (account s i).held with
              openJobs := 0
              heldScans := (account s i).heldScans -
                ((erasedByReset s).filter fun n => (keySlot s n).owner == some i).length
              preserved := (account s i).preserved && !cutOff (.account i) s &&
                sameForImage (account s i) ((account s i).giveBack (account s i).held) }) ∧
      ((∀ w, s.retentionUnit.walk = some w → w.writing = none) →
        t.retentionUnit.nvAccounts = s.retentionUnit.nvAccounts ∧
        t.retentionUnit.nvGroups = s.retentionUnit.nvGroups) ∧
      (∀ w i v, s.retentionUnit.walk = some w → w.position = .account i → w.writing = some (.account v) →
        t.retentionUnit.nvGroups = s.retentionUnit.nvGroups ∧
        (t.retentionUnit.nvAccounts = s.retentionUnit.nvAccounts ∨
          (Table.find t.retentionUnit.nvAccounts i = some v ∧
            ∀ j, j ≠ i → Table.find t.retentionUnit.nvAccounts j = Table.find s.retentionUnit.nvAccounts j))) ∧
      (∀ w p, s.retentionUnit.walk = some w → w.position = .groups → w.writing = some (.groups p) →
        t.retentionUnit.nvAccounts = s.retentionUnit.nvAccounts ∧
        (t.retentionUnit.nvGroups = s.retentionUnit.nvGroups ∨ t.retentionUnit.nvGroups = some p)) ∧
      (Table.wfDefault .blank s.holdUnit.slots = true →
        (∀ n, keySlot t n =
          if n ∈ erasedByReset s then KeySlot.blank
          else if releasingSlot s = some n then { keySlot s n with state := .held, release := none }
          else keySlot s n) ∧
        t.holdUnit.holdList = (overdueRelease s).foldl List.erase s.holdUnit.holdList ∧
        bandsFreed ((erasedByReset s).flatMap fun n => (keySlot s n).bands) s t)) ∧
  (∀ (s : State) (last : ResetCause) (pin dip : Bool), s.retentionUnit.supply = .holding →
    s.retentionUnit.reset = .warm pin dip last →
    (∀ cause, exec (.warmReset cause) s = .next { s with retentionUnit := { s.retentionUnit with
      reset := .warm (pin || decide (cause = .pin)) (dip || decide (cause = .supplyDip)) cause } }) ∧
    (∀ cause, exec (.resetCauseEnds cause) s = .next { s with retentionUnit := { s.retentionUnit with
      reset := .warm (pin && decide (cause ≠ .pin)) (dip && decide (cause ≠ .supplyDip)) last } })) ∧
  (∀ (s : State) (passes : Bool), s.retentionUnit.supply = .holding →
    (∀ pin dip last, s.retentionUnit.reset = .warm pin dip last → pin || dip →
      exec (.healthTestEnd passes) s = .next s) ∧
    (∀ kind, ((s.retentionUnit.reset = .cold ∧ kind = ResetKind.cold) ∨
        (s.retentionUnit.reset = .warm false false .pin ∧ kind = .pin) ∨
        (s.retentionUnit.reset = .warm false false .supplyDip ∧ kind = .supplyDip)) →
      s.jobUnit.jobs = [] → (∀ st, (station s st).inFlight = none ∧ (station s st).queue = []) →
      ∃ t, exec (.healthTestEnd passes) s = .next t ∧ down t = false ∧ t.retentionUnit.power = .run ∧
        t.retentionUnit.lastReset = kind ∧ t.imageMemory = { s.imageMemory with selfRefresh := false } ∧
        t.randomSource = { s.randomSource with health := if passes then .healthy else .unhealthy } ∧
        (passes = true → t.noticeUnit = s.noticeUnit) ∧
        (passes = false → faultTaken
          { kind := .keygenFailed, minute := s.holdUnit.minute, account := none, slot := none, band := none } s t) ∧
        (kind = .cold ∨ s.holdUnit.walkDue = false →
          onlyParts [.image, .notice, .random, .retention, .station] s t) ∧
        (∀ due erased : List Nat, kind ≠ .cold → s.holdUnit.walkDue = true → s.holdUnit.holdList.Nodup →
          due = s.holdUnit.holdList.takeWhile (fun n => decide (expiryOf s n ≤ s.holdUnit.minute)) →
          erased = due.filter (fun n => (keySlot s n).state != .releasing) →
          dueErased due erased s t ∧ t.holdUnit.minute = s.holdUnit.minute ∧ t.holdUnit.walkDue = false ∧
          onlyParts [.account, .capture, .hold, .image, .notice, .random, .retention, .station] s t) ∧
        t.retentionUnit = { s.retentionUnit with power := .run, lastReset := kind, reset := .none } ∧
        (kind = .cold → t.stationUnit = s.stationUnit) ∧
        (kind ≠ .cold → ∀ st, station t st = { station s st with
            state := if (s.lines.get st).condition = .shortLow ∨ (s.lines.get st).condition = .shortHigh then
                .lineFault else if (s.lines.get st).presence then .probing else .empty
            presence := (s.lines.get st).presence, condition := (s.lines.get st).condition
            rejectReason := none
            inFlight :=
              if ¬ ((s.lines.get st).condition = .shortLow ∨ (s.lines.get st).condition = .shortHigh) ∧
                (s.lines.get st).presence = true then some ⟨.identRead, 1⟩ else none })))

/-! ### What every step keeps -/

/-- Right after reset every invariant holds: the canonical forms, the ranges, the unique numbers, the yield law and the
stream law; the laws of the stations' exchanges and of the hold list; and the agreement of the records. -/
def Obligations.ResetMeetsTheInvariant : Prop :=
  invariant State.reset ∧ stationLaw State.reset ∧ holdListLaw State.reset ∧ recordsAgree State.reset

/-- R1 to R3, R22, R203: every step keeps every amount of every account within its range, in the table, in the image and
in a write in progress, and every account number in one entry. R8, R9, R32, R35, R58, R131, R134, R144: it keeps the
records in agreement, where the hold list is in order: the held units, the open jobs and the held scans of the
accounts with the jobs and the slots, the tags unique, the committed units with the sheets and the page, the port with
its job, and the descriptors and extents with the slots' bands. -/
def Obligations.EveryStepKeepsAccountsInBounds : Prop :=
  ∀ s t : State, invariant s → step s = .next t →
    accountsInBounds t ∧ numbersUnique t ∧ (holdListLaw s → recordsAgree s → recordsAgree t)

/-- R111, R157, R166: every step keeps the written yield less the remaining yield equal to the unwritten dose, at most
one slot RELEASING, and at most 16,384 bytes in the stream FIFO. R91, R124, R211: it keeps at most two exchanges in a
station's queue, no kind twice, none where a station has no cartridge to ask or the part is in STANDBY, no sheet in
flight in STANDBY, and the rotation's counter below its end. R159: it keeps the hold list to the HELD and RELEASING
slots, once each, by expiry minute. -/
def Obligations.EveryStepKeepsTheYieldAndStreamLaws : Prop :=
  ∀ s t : State, invariant s → step s = .next t →
    yieldLaw t ∧ streamLaw t ∧ (stationLaw s → stationLaw t) ∧ (holdListLaw s → holdListLaw t)

/-- Every step keeps every table, map and memory in its one canonical form, so that equal records are equal data. -/
def Obligations.EveryStepKeepsTheCanonicalForm : Prop :=
  ∀ s t : State, invariant s → step s = .next t → canonical t
end

