-- ==== Sys2Proof/Laws/Bytes.lean ====
section
/-! SUPPORT. Numbers packed in bytes are read back, at any place of a body. -/
namespace Sys2Proof.Machine

@[simp] theorem length_le (w n : Nat) : (le w n).length = w := by
  induction w generalizing n with
  | zero => rfl
  | succ w ih => simp [le, ih]

theorem ofLe_le (w n : Nat) : ofLe (le w n) = n % 256 ^ w := by
  induction w generalizing n with
  | zero => simp [le, ofLe, Nat.mod_one]
  | succ w ih =>
    simp only [le, ofLe, ih, byteOf, BitVec.toNat_ofNat]
    have h : (256 : Nat) ^ (w + 1) = 256 * 256 ^ w := by rw [Nat.pow_succ, Nat.mul_comm]
    rw [h, Nat.mod_mul]

/-- A number that fits its width is read back. -/
theorem ofLe_le_of_lt {w n : Nat} (h : n < 256 ^ w) : ofLe (le w n) = n := by
  rw [ofLe_le, Nat.mod_eq_of_lt h]

/-- A field of a body is the number packed at its place. -/
theorem field_at (pre post : List Byte) (w n : Nat) : field (pre ++ le w n ++ post) pre.length w = n % 256 ^ w := by
  simp only [field, List.append_assoc, List.drop_left]
  rw [List.take_left' (length_le w n), ofLe_le]

/-- A field that begins after the first `w` bytes of a body is a field of what follows them. -/
theorem field_skip (pre rest : List Byte) (i v : Nat) : field (pre ++ rest) (i + pre.length) v = field rest i v := by
  simp only [field]
  rw [Nat.add_comm, ← List.drop_drop, List.drop_left]

theorem field_cons_skip (b : Byte) (rest : List Byte) (i v : Nat) : field (b :: rest) (i + 1) v = field rest i v := by
  simp only [field, List.drop_succ_cons]

theorem field_byte (b : Byte) (rest : List Byte) : field (b :: rest) 0 1 = b.toNat := by
  simp [field, ofLe]

theorem field_le (rest : List Byte) (w n : Nat) : field (le w n ++ rest) 0 w = n % 256 ^ w := by
  have := field_at [] rest w n
  simpa using this

theorem field_le2_skip (rest : List Byte) (n i v : Nat) : field (le 2 n ++ rest) (i + 2) v = field rest i v := by
  have := field_skip (le 2 n) rest i v; simpa using this

theorem field_le3_skip (rest : List Byte) (n i v : Nat) : field (le 3 n ++ rest) (i + 3) v = field rest i v := by
  have := field_skip (le 3 n) rest i v; simpa using this

theorem toNat_byteOf (n : Nat) (h : n < 256) : (byteOf n).toNat = n := by
  simp [byteOf, Nat.mod_eq_of_lt h]

/-- A number in two bytes. -/
theorem le_two (n : Nat) : le 2 n = [byteOf n, byteOf (n / 256)] := rfl

/-- Two bytes of a word spell it. -/
theorem ofNat_ofLe_le (v : BitVec 16) : BitVec.ofNat 16 (ofLe (le 2 v.toNat)) = v := by
  rw [ofLe_le_of_lt (show v.toNat < 256 ^ 2 from v.isLt), BitVec.ofNat_toNat, BitVec.setWidth_eq]

@[simp] theorem length_packDoses (d : PerStation (BitVec 16)) : (packDoses d).length = 10 := by
  simp [packDoses]

/-- Doses packed in a body are read back at their place. -/
theorem dosesAt_packDoses (pre post : List Byte) (d : PerStation (BitVec 16)) :
    dosesAt (pre ++ (packDoses d ++ post)) pre.length = d := by
  have at_ (before after : List Byte) (v : BitVec 16) (i : Nat) (hi : i = before.length) :
      BitVec.ofNat 16 (u16 (before ++ (le 2 v.toNat ++ after)) i) = v := by
    subst hi
    rw [u16, ← List.append_assoc, field_at, ← ofLe_le, ofNat_ofLe_le]
  obtain ⟨k, c, m, y, drum⟩ := d
  simp only [dosesAt, packDoses, PerStation.mk.injEq]
  refine ⟨?_, ?_, ?_, ?_, ?_⟩
  · simpa using at_ pre (le 2 c.toNat ++ (le 2 m.toNat ++ (le 2 y.toNat ++ (le 2 drum.toNat ++ post)))) k pre.length rfl
  · simpa using at_ (pre ++ le 2 k.toNat) (le 2 m.toNat ++ (le 2 y.toNat ++ (le 2 drum.toNat ++ post))) c (pre.length + 2)
      (by simp)
  · simpa using at_ (pre ++ (le 2 k.toNat ++ le 2 c.toNat)) (le 2 y.toNat ++ (le 2 drum.toNat ++ post)) m (pre.length + 4)
      (by simp)
  · simpa using at_ (pre ++ (le 2 k.toNat ++ (le 2 c.toNat ++ le 2 m.toNat))) (le 2 drum.toNat ++ post) y (pre.length + 6)
      (by simp)
  · simpa using at_ (pre ++ (le 2 k.toNat ++ (le 2 c.toNat ++ (le 2 m.toNat ++ le 2 y.toNat)))) post drum (pre.length + 8)
      (by simp)

@[simp] theorem length_pad4 (body : List Byte) : (pad4 body).length = (body.length + 3) / 4 * 4 := by
  simp only [pad4, List.length_append, List.length_replicate]; omega

end Sys2Proof.Machine
end

