-- ==== Sys2Proof/Laws/Table.lean ====
section
/-! SUPPORT. What the operations on sparse tables do: what a key reads as after them, and that they keep the
canonical form. -/
namespace Sys2Proof.Machine.Table
variable {α : Type}

@[simp] theorem find_nil (k : Nat) : find ([] : Table α) k = none := rfl

theorem find_put_same (t : Table α) (k : Nat) (v : α) : find (put t k v) k = some v := by
  induction t with
  | nil => simp [put, find]
  | cons e rest ih =>
    obtain ⟨j, w⟩ := e
    simp only [put]
    split
    · simp [find]
    · split
      · simp [find]
      · rename_i h; simp [find, Ne.symm h, ih]

theorem find_put_other (t : Table α) {k k' : Nat} (v : α) (h : k' ≠ k) : find (put t k v) k' = find t k' := by
  induction t with
  | nil => simp [put, find, Ne.symm h]
  | cons e rest ih =>
    obtain ⟨j, w⟩ := e
    simp only [put]
    split
    · simp [find, Ne.symm h]
    · split
      · rename_i h2; subst h2; simp [find, Ne.symm h]
      · simp [find, ih]

theorem find_put (t : Table α) (k k' : Nat) (v : α) :
    find (put t k v) k' = if k' = k then some v else find t k' := by
  split
  · rename_i h; subst h; exact find_put_same ..
  · rename_i h; exact find_put_other _ _ h

theorem find_drop (t : Table α) (k k' : Nat) : find (drop t k) k' = if k' = k then none else find t k' := by
  induction t with
  | nil => simp [drop, find]
  | cons e rest ih =>
    obtain ⟨j, w⟩ := e
    simp only [drop]
    split
    · rename_i h; subst h; rw [ih]
      split
      · rfl
      · rename_i h2; simp [find, Ne.symm h2]
    · rename_i h; simp only [find, ih]
      split
      · rename_i h2; subst h2; simp [h]
      · rfl

section
variable [DecidableEq α]

/-- What every key reads as after a write. -/
theorem read_write (d : α) (t : Table α) (k k' : Nat) (v : α) :
    read d (write d t k v) k' = if k' = k then v else read d t k' := by
  unfold read write
  split
  · rename_i h; subst h; rw [find_drop]; split <;> rfl
  · rw [find_put]; split <;> rfl

theorem read_write_same (d : α) (t : Table α) (k : Nat) (v : α) : read d (write d t k v) k = v := by
  simp [read_write]

theorem read_write_other (d : α) (t : Table α) {k k' : Nat} (v : α) (h : k' ≠ k) :
    read d (write d t k v) k' = read d t k' := by simp [read_write, h]

end

/-! ### The canonical form -/

theorem rising_mono {low low' : Nat} (h : low' ≤ low) (t : Table α) (ht : rising low t = true) :
    rising low' t = true := by
  cases t with
  | nil => rfl
  | cons e rest =>
    obtain ⟨k, v⟩ := e
    simp only [rising, Bool.and_eq_true, decide_eq_true_eq] at ht ⊢
    exact ⟨Nat.le_trans h ht.1, ht.2⟩

theorem rising_put {low k : Nat} (t : Table α) (v : α) (hk : low ≤ k) (ht : rising low t = true) :
    rising low (put t k v) = true := by
  induction t generalizing low with
  | nil => simp [put, rising, hk]
  | cons e rest ih =>
    obtain ⟨j, w⟩ := e
    simp only [rising, Bool.and_eq_true, decide_eq_true_eq] at ht
    simp only [put]
    split
    · rename_i h
      simp only [rising, Bool.and_eq_true, decide_eq_true_eq]
      exact ⟨hk, h, ht.2⟩
    · split
      · rename_i h; subst h
        simp only [rising, Bool.and_eq_true, decide_eq_true_eq]
        exact ⟨hk, ht.2⟩
      · simp only [rising, Bool.and_eq_true, decide_eq_true_eq]
        exact ⟨ht.1, ih (by omega) ht.2⟩

theorem rising_drop {low : Nat} (t : Table α) (k : Nat) (ht : rising low t = true) : rising low (drop t k) = true := by
  induction t generalizing low with
  | nil => rfl
  | cons e rest ih =>
    obtain ⟨j, w⟩ := e
    simp only [rising, Bool.and_eq_true, decide_eq_true_eq] at ht
    simp only [drop]
    split
    · exact ih (rising_mono (by omega) _ ht.2)
    · simp only [rising, Bool.and_eq_true, decide_eq_true_eq]
      exact ⟨ht.1, ih ht.2⟩

/-- A put keeps the canonical form of a table whose unlisted keys hold nothing. -/
theorem wf_put (t : Table α) (k : Nat) (v : α) (ht : wf t = true) : wf (put t k v) = true :=
  rising_put t v (Nat.zero_le _) ht

/-- A drop keeps the canonical form. -/
theorem wf_drop (t : Table α) (k : Nat) (ht : wf t = true) : wf (drop t k) = true := rising_drop t k ht

/-- Changing the listed values keeps the keys. -/
theorem rising_map {β : Type} (f : α → β) (t : Table α) (low : Nat) :
    rising low (t.map fun e => (e.1, f e.2)) = rising low t := by
  induction t generalizing low with
  | nil => rfl
  | cons e rest ih => obtain ⟨k, v⟩ := e; simp [rising, ih]

theorem mem_put {t : Table α} {k : Nat} {v : α} {e : Nat × α} (h : e ∈ put t k v) : e = (k, v) ∨ e ∈ t := by
  induction t with
  | nil => simp only [put, List.mem_singleton] at h; exact .inl h
  | cons f rest ih =>
    obtain ⟨j, w⟩ := f
    simp only [put] at h
    split at h
    · simp only [List.mem_cons] at h ⊢; exact h
    · split at h
      · simp only [List.mem_cons] at h ⊢; exact h.imp id .inr
      · simp only [List.mem_cons] at h ⊢
        rcases h with h | h
        · exact .inr (.inl h)
        · exact (ih h).imp id .inr

theorem mem_drop {t : Table α} {k : Nat} {e : Nat × α} (h : e ∈ drop t k) : e ∈ t := by
  induction t with
  | nil => exact h
  | cons f rest ih =>
    obtain ⟨j, w⟩ := f
    simp only [drop] at h
    split at h
    · exact .tail _ (ih h)
    · simp only [List.mem_cons] at h ⊢; exact h.imp id ih

section
variable [DecidableEq α]

/-- A write keeps the canonical form of a table with a default. -/
theorem wfDefault_write (d : α) (t : Table α) (k : Nat) (v : α) (ht : wfDefault d t = true) :
    wfDefault d (write d t k v) = true := by
  simp only [wfDefault, Bool.and_eq_true, List.all_eq_true, bne_iff_ne, ne_eq] at ht ⊢
  unfold write
  split
  · exact ⟨rising_drop t k ht.1, fun e he => ht.2 e (mem_drop he)⟩
  · rename_i hv
    refine ⟨rising_put t v (Nat.zero_le _) ht.1, fun e he => ?_⟩
    rcases mem_put he with h | h
    · subst h; exact hv
    · exact ht.2 e h

theorem rising_mapValues (d : α) (f : α → α) (t : Table α) (low : Nat) (ht : rising low t = true) :
    rising low (mapValues d f t) = true := by
  induction t generalizing low with
  | nil => rfl
  | cons e rest ih =>
    obtain ⟨k, v⟩ := e
    simp only [rising, Bool.and_eq_true, decide_eq_true_eq] at ht
    simp only [mapValues]
    split
    · exact rising_mono (by omega) _ (ih (k + 1) ht.2)
    · simp only [rising, Bool.and_eq_true, decide_eq_true_eq]
      exact ⟨ht.1, ih (k + 1) ht.2⟩

theorem mem_mapValues {d : α} {f : α → α} {t : Table α} {e : Nat × α} (h : e ∈ mapValues d f t) :
    e.2 ≠ d ∧ ∃ v, (e.1, v) ∈ t ∧ e.2 = f v := by
  induction t with
  | nil => simp [mapValues] at h
  | cons g rest ih =>
    obtain ⟨j, w⟩ := g
    simp only [mapValues] at h
    split at h
    · obtain ⟨h1, v, h2, h3⟩ := ih h
      exact ⟨h1, v, .tail _ h2, h3⟩
    · rename_i hne
      simp only [List.mem_cons] at h
      rcases h with h | h
      · subst h; exact ⟨hne, w, .head _, rfl⟩
      · obtain ⟨h1, v, h2, h3⟩ := ih h
        exact ⟨h1, v, .tail _ h2, h3⟩

/-- Changing the listed values keeps the canonical form of a table with a default. -/
theorem wfDefault_mapValues (d : α) (f : α → α) (t : Table α) (ht : wfDefault d t = true) :
    wfDefault d (mapValues d f t) = true := by
  simp only [wfDefault, Bool.and_eq_true, List.all_eq_true, bne_iff_ne, ne_eq] at ht ⊢
  exact ⟨rising_mapValues d f t 0 ht.1, fun e he => (mem_mapValues he).1⟩

/-- What a key reads as after the listed values are changed by a function that keeps the default. -/
theorem read_mapValues (d : α) (f : α → α) (hf : f d = d) (t : Table α) (low k : Nat) (ht : rising low t = true) :
    read d (mapValues d f t) k = f (read d t k) := by
  have key : ∀ (t : Table α) (low : Nat), rising low t = true → ∀ k, k < low → find t k = none := by
    intro t
    induction t with
    | nil => intros; rfl
    | cons e rest ih =>
      obtain ⟨j, w⟩ := e
      intro low h k hk
      simp only [rising, Bool.and_eq_true, decide_eq_true_eq] at h
      have hj : j ≠ k := by omega
      simp [find, hj, ih (j + 1) h.2 k (by omega)]
  induction t generalizing low with
  | nil => simp [read, mapValues, hf]
  | cons e rest ih =>
    obtain ⟨j, w⟩ := e
    have h := ht
    simp only [rising, Bool.and_eq_true, decide_eq_true_eq] at h
    simp only [mapValues]
    by_cases hjk : j = k
    · subst hjk
      have hn : find rest j = none := key rest (j + 1) h.2 j (by omega)
      have hi := ih (j + 1) h.2
      simp only [read, hn, Option.getD_none, hf] at hi
      split
      · rename_i hd
        simp only [read, find, if_true, Option.getD_some, hd]
        exact hi
      · simp [read, find]
    · have hi := ih (j + 1) h.2
      split <;> simp only [read, find, hjk, if_false] at hi ⊢ <;> exact hi

end

/-! ### Searches -/

theorem search_some {p : α → Bool} {t : Table α} {e : Nat × α} (h : search p t = some e) : e ∈ t ∧ p e.2 = true := by
  induction t with
  | nil => simp [search] at h
  | cons f rest ih =>
    obtain ⟨j, w⟩ := f
    simp only [search] at h
    split at h
    · rename_i hp; cases h; exact ⟨.head _, hp⟩
    · exact ⟨.tail _ (ih h).1, (ih h).2⟩

theorem search_none {p : α → Bool} {t : Table α} (h : search p t = none) {e : Nat × α} (he : e ∈ t) : p e.2 = false := by
  induction t with
  | nil => cases he
  | cons f rest ih =>
    obtain ⟨j, w⟩ := f
    simp only [search] at h
    split at h
    · cases h
    · rename_i hp
      rcases List.mem_cons.1 he with h2 | h2
      · subst h2; simpa using hp
      · exact ih h h2

theorem mem_find {t : Table α} {low k : Nat} {v : α} (ht : rising low t = true) (h : (k, v) ∈ t) :
    find t k = some v := by
  induction t generalizing low with
  | nil => cases h
  | cons f rest ih =>
    obtain ⟨j, w⟩ := f
    simp only [rising, Bool.and_eq_true, decide_eq_true_eq] at ht
    rcases List.mem_cons.1 h with h2 | h2
    · cases h2; simp [find]
    · have : ∀ (t : Table α) (low : Nat), rising low t = true → ∀ e ∈ t, low ≤ e.1 := by
        intro t
        induction t with
        | nil => intro _ _ e he; cases he
        | cons g r ih2 =>
          obtain ⟨i, x⟩ := g
          intro low hl e he
          simp only [rising, Bool.and_eq_true, decide_eq_true_eq] at hl
          rcases List.mem_cons.1 he with h3 | h3
          · subst h3; exact hl.1
          · have := ih2 (i + 1) hl.2 e h3; omega
      have hlt := this rest (j + 1) ht.2 _ h2
      have hne : j ≠ k := by simp only at hlt; omega
      simp [find, hne, ih ht.2 h2]

theorem find_mem {t : Table α} {k : Nat} {v : α} (h : find t k = some v) : (k, v) ∈ t := by
  induction t with
  | nil => cases h
  | cons f rest ih =>
    obtain ⟨j, w⟩ := f
    simp only [find] at h
    split at h
    · rename_i hj; subst hj; cases h; exact .head _
    · exact .tail _ (ih h)

theorem lowest_spec {p : Nat → Bool} {fuel k n : Nat} (h : lowest p fuel k = some n) :
    p n = true ∧ k ≤ n ∧ n < k + fuel ∧ ∀ m, k ≤ m → m < n → p m = false := by
  induction fuel generalizing k with
  | zero => simp [lowest] at h
  | succ fuel ih =>
    simp only [lowest] at h
    split at h
    · rename_i hp; cases h; exact ⟨hp, Nat.le_refl _, by omega, fun m h1 h2 => by omega⟩
    · rename_i hp
      obtain ⟨h1, h2, h3, h4⟩ := ih h
      refine ⟨h1, by omega, by omega, fun m hm1 hm2 => ?_⟩
      by_cases hk : m = k
      · subst hk; simpa using hp
      · exact h4 m (by omega) hm2

/-- The lowest key of which the test holds is found. -/
theorem lowest_of {p : Nat → Bool} {fuel k n : Nat} (h1 : p n = true) (h2 : k ≤ n) (h3 : n < k + fuel)
    (h4 : ∀ m, k ≤ m → m < n → p m = false) : lowest p fuel k = some n := by
  induction fuel generalizing k with
  | zero => omega
  | succ fuel ih =>
    simp only [lowest]
    by_cases hk : n = k
    · subst hk; rw [if_pos h1]
    · rw [if_neg (by rw [h4 k (Nat.le_refl _) (by omega)]; simp)]
      exact ih (by omega) (by omega) (fun m a b => h4 m (by omega) b)

end Sys2Proof.Machine.Table
end

