-- ==== Sys2Proof/Laws/Memory.lean ====
section
/-! SUPPORT. What the operations on byte memories do, and that they keep the canonical form. -/
namespace Sys2Proof.Machine.Memory

@[simp] theorem read_nil (a : Nat) : read [] a = 0 := rfl

/-- What every address reads as after a byte is written. -/
theorem read_write (m : Memory) (a x : Nat) (b : Byte) : read (write m a b) x = if x = a then b else read m x :=
  Table.read_write ..

/-- What every address reads as after bytes are written: the byte written there, else what it read before. -/
theorem read_writeBytes (l : List Byte) (m : Memory) (a x : Nat) :
    read (writeBytes m a l) x = if a ≤ x ∧ x < a + l.length then l.getD (x - a) 0 else read m x := by
  induction l generalizing m a with
  | nil =>
    have : ¬ (a ≤ x ∧ x < a + ([] : List Byte).length) := by simp only [List.length_nil]; omega
    rw [if_neg this]; rfl
  | cons b rest ih =>
    simp only [writeBytes, ih, read_write, List.length_cons]
    by_cases hx : x = a
    · subst hx
      have h1 : ¬ (x + 1 ≤ x ∧ x < x + 1 + rest.length) := by omega
      have h2 : x ≤ x ∧ x < x + (rest.length + 1) := by omega
      rw [if_neg h1, if_pos rfl, if_pos h2]; simp
    · rw [if_neg hx]
      by_cases h : a ≤ x ∧ x < a + (rest.length + 1)
      · have h1 : a + 1 ≤ x ∧ x < a + 1 + rest.length := by omega
        rw [if_pos h1, if_pos h]
        have : x - a = (x - (a + 1)) + 1 := by omega
        rw [this, List.getD_cons_succ]
      · have h1 : ¬ (a + 1 ≤ x ∧ x < a + 1 + rest.length) := by omega
        rw [if_neg h1, if_neg h]

/-- An address outside the bytes written reads as before. -/
theorem read_writeBytes_outside {l : List Byte} {m : Memory} {a x : Nat} (h : x < a ∨ a + l.length ≤ x) :
    read (writeBytes m a l) x = read m x := by
  rw [read_writeBytes, if_neg (by omega)]

@[simp] theorem length_readBytes (m : Memory) (a n : Nat) : (readBytes m a n).length = n := by
  induction n generalizing a with
  | zero => rfl
  | succ n ih => simp [readBytes, ih]

/-- Bytes read are those each address reads as. -/
theorem readBytes_congr {m m' : Memory} {a n : Nat} (h : ∀ x, a ≤ x → x < a + n → read m x = read m' x) :
    readBytes m a n = readBytes m' a n := by
  induction n generalizing a with
  | zero => rfl
  | succ n ih =>
    simp only [readBytes]
    rw [h a (by omega) (by omega), ih (fun x h1 h2 => h x (by omega) (by omega))]

/-- Bytes written are read back, and so is any stretch of them. -/
theorem readBytes_writeBytes_at (pre l post : List Byte) (m : Memory) (a : Nat) :
    readBytes (writeBytes m a (pre ++ l ++ post)) (a + pre.length) l.length = l := by
  induction l generalizing pre with
  | nil => rfl
  | cons b rest ih =>
    simp only [readBytes, List.length_cons]
    have h1 := ih (pre ++ [b])
    rw [show pre ++ [b] ++ rest ++ post = pre ++ (b :: rest) ++ post by simp] at h1
    rw [show (a + (pre ++ [b]).length) = a + pre.length + 1 by simp; omega] at h1
    rw [h1, read_writeBytes]
    rw [if_pos (by simp only [List.length_append, List.length_cons]; omega)]
    simp

/-- Bytes written are read back. -/
theorem readBytes_writeBytes (l : List Byte) (m : Memory) (a : Nat) :
    readBytes (writeBytes m a l) a l.length = l := by
  have := readBytes_writeBytes_at [] l [] m a
  simpa using this

/-- A write of a byte keeps the canonical form. -/
theorem wf_write (m : Memory) (a : Nat) (b : Byte) (h : wf m = true) : wf (write m a b) = true :=
  Table.wfDefault_write _ _ _ _ h

/-- A write of bytes keeps the canonical form. -/
theorem wf_writeBytes (l : List Byte) (m : Memory) (a : Nat) (h : wf m = true) : wf (writeBytes m a l) = true := by
  induction l generalizing m a with
  | nil => exact h
  | cons b rest ih => exact ih _ _ (wf_write _ _ _ h)

@[simp] theorem wf_nil : wf [] = true := rfl

end Sys2Proof.Machine.Memory
end

