-- ==== Sys2Proof/Laws/State.lean ====
section
/-! SUPPORT. One lemma per field of each update of the state, all of them true by definition: later proofs cite
these and unfold no record update. -/
namespace Sys2Proof.Machine

@[simp] theorem putAccount_controlPort (i : Nat) (a : Account) (s : State) :
    (putAccount i a s).controlPort = s.controlPort := rfl
@[simp] theorem putAccount_jobUnit (i : Nat) (a : Account) (s : State) :
    (putAccount i a s).jobUnit = s.jobUnit := rfl
@[simp] theorem putAccount_sheetLink (i : Nat) (a : Account) (s : State) :
    (putAccount i a s).sheetLink = s.sheetLink := rfl
@[simp] theorem putAccount_stationUnit (i : Nat) (a : Account) (s : State) :
    (putAccount i a s).stationUnit = s.stationUnit := rfl
@[simp] theorem putAccount_captureUnit (i : Nat) (a : Account) (s : State) :
    (putAccount i a s).captureUnit = s.captureUnit := rfl
@[simp] theorem putAccount_holdUnit (i : Nat) (a : Account) (s : State) :
    (putAccount i a s).holdUnit = s.holdUnit := rfl
@[simp] theorem putAccount_randomSource (i : Nat) (a : Account) (s : State) :
    (putAccount i a s).randomSource = s.randomSource := rfl
@[simp] theorem putAccount_noticeUnit (i : Nat) (a : Account) (s : State) :
    (putAccount i a s).noticeUnit = s.noticeUnit := rfl
@[simp] theorem putAccount_retentionUnit (i : Nat) (a : Account) (s : State) :
    (putAccount i a s).retentionUnit = s.retentionUnit := rfl
@[simp] theorem putAccount_imageMemory (i : Nat) (a : Account) (s : State) :
    (putAccount i a s).imageMemory = s.imageMemory := rfl
@[simp] theorem putAccount_lines (i : Nat) (a : Account) (s : State) :
    (putAccount i a s).lines = s.lines := rfl
@[simp] theorem putAccount_freeCount (i : Nat) (a : Account) (s : State) :
    (putAccount i a s).freeCount = s.freeCount := rfl
@[simp] theorem putAccount_pending (i : Nat) (a : Account) (s : State) :
    (putAccount i a s).pending = s.pending := rfl
@[simp] theorem touchAccount_controlPort (i : Nat) (s : State) :
    (touchAccount i s).controlPort = s.controlPort := rfl
@[simp] theorem touchAccount_accountUnit (i : Nat) (s : State) :
    (touchAccount i s).accountUnit = s.accountUnit := rfl
@[simp] theorem touchAccount_jobUnit (i : Nat) (s : State) :
    (touchAccount i s).jobUnit = s.jobUnit := rfl
@[simp] theorem touchAccount_sheetLink (i : Nat) (s : State) :
    (touchAccount i s).sheetLink = s.sheetLink := rfl
@[simp] theorem touchAccount_stationUnit (i : Nat) (s : State) :
    (touchAccount i s).stationUnit = s.stationUnit := rfl
@[simp] theorem touchAccount_captureUnit (i : Nat) (s : State) :
    (touchAccount i s).captureUnit = s.captureUnit := rfl
@[simp] theorem touchAccount_holdUnit (i : Nat) (s : State) :
    (touchAccount i s).holdUnit = s.holdUnit := rfl
@[simp] theorem touchAccount_randomSource (i : Nat) (s : State) :
    (touchAccount i s).randomSource = s.randomSource := rfl
@[simp] theorem touchAccount_noticeUnit (i : Nat) (s : State) :
    (touchAccount i s).noticeUnit = s.noticeUnit := rfl
@[simp] theorem touchAccount_imageMemory (i : Nat) (s : State) :
    (touchAccount i s).imageMemory = s.imageMemory := rfl
@[simp] theorem touchAccount_lines (i : Nat) (s : State) :
    (touchAccount i s).lines = s.lines := rfl
@[simp] theorem touchAccount_freeCount (i : Nat) (s : State) :
    (touchAccount i s).freeCount = s.freeCount := rfl
@[simp] theorem touchAccount_pending (i : Nat) (s : State) :
    (touchAccount i s).pending = s.pending := rfl
@[simp] theorem touchGroups_controlPort (s : State) :
    (touchGroups s).controlPort = s.controlPort := rfl
@[simp] theorem touchGroups_accountUnit (s : State) :
    (touchGroups s).accountUnit = s.accountUnit := rfl
@[simp] theorem touchGroups_jobUnit (s : State) :
    (touchGroups s).jobUnit = s.jobUnit := rfl
@[simp] theorem touchGroups_sheetLink (s : State) :
    (touchGroups s).sheetLink = s.sheetLink := rfl
@[simp] theorem touchGroups_stationUnit (s : State) :
    (touchGroups s).stationUnit = s.stationUnit := rfl
@[simp] theorem touchGroups_captureUnit (s : State) :
    (touchGroups s).captureUnit = s.captureUnit := rfl
@[simp] theorem touchGroups_holdUnit (s : State) :
    (touchGroups s).holdUnit = s.holdUnit := rfl
@[simp] theorem touchGroups_randomSource (s : State) :
    (touchGroups s).randomSource = s.randomSource := rfl
@[simp] theorem touchGroups_noticeUnit (s : State) :
    (touchGroups s).noticeUnit = s.noticeUnit := rfl
@[simp] theorem touchGroups_imageMemory (s : State) :
    (touchGroups s).imageMemory = s.imageMemory := rfl
@[simp] theorem touchGroups_lines (s : State) :
    (touchGroups s).lines = s.lines := rfl
@[simp] theorem touchGroups_freeCount (s : State) :
    (touchGroups s).freeCount = s.freeCount := rfl
@[simp] theorem touchGroups_pending (s : State) :
    (touchGroups s).pending = s.pending := rfl
@[simp] theorem putJob_controlPort (k : Nat) (j : Job) (s : State) :
    (putJob k j s).controlPort = s.controlPort := rfl
@[simp] theorem putJob_accountUnit (k : Nat) (j : Job) (s : State) :
    (putJob k j s).accountUnit = s.accountUnit := rfl
@[simp] theorem putJob_sheetLink (k : Nat) (j : Job) (s : State) :
    (putJob k j s).sheetLink = s.sheetLink := rfl
@[simp] theorem putJob_stationUnit (k : Nat) (j : Job) (s : State) :
    (putJob k j s).stationUnit = s.stationUnit := rfl
@[simp] theorem putJob_captureUnit (k : Nat) (j : Job) (s : State) :
    (putJob k j s).captureUnit = s.captureUnit := rfl
@[simp] theorem putJob_holdUnit (k : Nat) (j : Job) (s : State) :
    (putJob k j s).holdUnit = s.holdUnit := rfl
@[simp] theorem putJob_randomSource (k : Nat) (j : Job) (s : State) :
    (putJob k j s).randomSource = s.randomSource := rfl
@[simp] theorem putJob_noticeUnit (k : Nat) (j : Job) (s : State) :
    (putJob k j s).noticeUnit = s.noticeUnit := rfl
@[simp] theorem putJob_retentionUnit (k : Nat) (j : Job) (s : State) :
    (putJob k j s).retentionUnit = s.retentionUnit := rfl
@[simp] theorem putJob_imageMemory (k : Nat) (j : Job) (s : State) :
    (putJob k j s).imageMemory = s.imageMemory := rfl
@[simp] theorem putJob_lines (k : Nat) (j : Job) (s : State) :
    (putJob k j s).lines = s.lines := rfl
@[simp] theorem putJob_freeCount (k : Nat) (j : Job) (s : State) :
    (putJob k j s).freeCount = s.freeCount := rfl
@[simp] theorem putJob_pending (k : Nat) (j : Job) (s : State) :
    (putJob k j s).pending = s.pending := rfl
@[simp] theorem putStation_controlPort (st : Station) (x : StationRecord) (s : State) :
    (putStation st x s).controlPort = s.controlPort := rfl
@[simp] theorem putStation_accountUnit (st : Station) (x : StationRecord) (s : State) :
    (putStation st x s).accountUnit = s.accountUnit := rfl
@[simp] theorem putStation_jobUnit (st : Station) (x : StationRecord) (s : State) :
    (putStation st x s).jobUnit = s.jobUnit := rfl
@[simp] theorem putStation_sheetLink (st : Station) (x : StationRecord) (s : State) :
    (putStation st x s).sheetLink = s.sheetLink := rfl
@[simp] theorem putStation_captureUnit (st : Station) (x : StationRecord) (s : State) :
    (putStation st x s).captureUnit = s.captureUnit := rfl
@[simp] theorem putStation_holdUnit (st : Station) (x : StationRecord) (s : State) :
    (putStation st x s).holdUnit = s.holdUnit := rfl
@[simp] theorem putStation_randomSource (st : Station) (x : StationRecord) (s : State) :
    (putStation st x s).randomSource = s.randomSource := rfl
@[simp] theorem putStation_noticeUnit (st : Station) (x : StationRecord) (s : State) :
    (putStation st x s).noticeUnit = s.noticeUnit := rfl
@[simp] theorem putStation_retentionUnit (st : Station) (x : StationRecord) (s : State) :
    (putStation st x s).retentionUnit = s.retentionUnit := rfl
@[simp] theorem putStation_imageMemory (st : Station) (x : StationRecord) (s : State) :
    (putStation st x s).imageMemory = s.imageMemory := rfl
@[simp] theorem putStation_lines (st : Station) (x : StationRecord) (s : State) :
    (putStation st x s).lines = s.lines := rfl
@[simp] theorem putStation_freeCount (st : Station) (x : StationRecord) (s : State) :
    (putStation st x s).freeCount = s.freeCount := rfl
@[simp] theorem putStation_pending (st : Station) (x : StationRecord) (s : State) :
    (putStation st x s).pending = s.pending := rfl
@[simp] theorem putSlot_controlPort (n : Nat) (x : KeySlot) (s : State) :
    (putSlot n x s).controlPort = s.controlPort := rfl
@[simp] theorem putSlot_accountUnit (n : Nat) (x : KeySlot) (s : State) :
    (putSlot n x s).accountUnit = s.accountUnit := rfl
@[simp] theorem putSlot_jobUnit (n : Nat) (x : KeySlot) (s : State) :
    (putSlot n x s).jobUnit = s.jobUnit := rfl
@[simp] theorem putSlot_sheetLink (n : Nat) (x : KeySlot) (s : State) :
    (putSlot n x s).sheetLink = s.sheetLink := rfl
@[simp] theorem putSlot_stationUnit (n : Nat) (x : KeySlot) (s : State) :
    (putSlot n x s).stationUnit = s.stationUnit := rfl
@[simp] theorem putSlot_captureUnit (n : Nat) (x : KeySlot) (s : State) :
    (putSlot n x s).captureUnit = s.captureUnit := rfl
@[simp] theorem putSlot_randomSource (n : Nat) (x : KeySlot) (s : State) :
    (putSlot n x s).randomSource = s.randomSource := rfl
@[simp] theorem putSlot_noticeUnit (n : Nat) (x : KeySlot) (s : State) :
    (putSlot n x s).noticeUnit = s.noticeUnit := rfl
@[simp] theorem putSlot_retentionUnit (n : Nat) (x : KeySlot) (s : State) :
    (putSlot n x s).retentionUnit = s.retentionUnit := rfl
@[simp] theorem putSlot_imageMemory (n : Nat) (x : KeySlot) (s : State) :
    (putSlot n x s).imageMemory = s.imageMemory := rfl
@[simp] theorem putSlot_lines (n : Nat) (x : KeySlot) (s : State) :
    (putSlot n x s).lines = s.lines := rfl
@[simp] theorem putSlot_freeCount (n : Nat) (x : KeySlot) (s : State) :
    (putSlot n x s).freeCount = s.freeCount := rfl
@[simp] theorem putSlot_pending (n : Nat) (x : KeySlot) (s : State) :
    (putSlot n x s).pending = s.pending := rfl
@[simp] theorem raise_controlPort (n : Notice) (s : State) :
    (raise n s).controlPort = s.controlPort := rfl
@[simp] theorem raise_accountUnit (n : Notice) (s : State) :
    (raise n s).accountUnit = s.accountUnit := rfl
@[simp] theorem raise_jobUnit (n : Notice) (s : State) :
    (raise n s).jobUnit = s.jobUnit := rfl
@[simp] theorem raise_sheetLink (n : Notice) (s : State) :
    (raise n s).sheetLink = s.sheetLink := rfl
@[simp] theorem raise_stationUnit (n : Notice) (s : State) :
    (raise n s).stationUnit = s.stationUnit := rfl
@[simp] theorem raise_captureUnit (n : Notice) (s : State) :
    (raise n s).captureUnit = s.captureUnit := rfl
@[simp] theorem raise_holdUnit (n : Notice) (s : State) :
    (raise n s).holdUnit = s.holdUnit := rfl
@[simp] theorem raise_randomSource (n : Notice) (s : State) :
    (raise n s).randomSource = s.randomSource := rfl
@[simp] theorem raise_retentionUnit (n : Notice) (s : State) :
    (raise n s).retentionUnit = s.retentionUnit := rfl
@[simp] theorem raise_imageMemory (n : Notice) (s : State) :
    (raise n s).imageMemory = s.imageMemory := rfl
@[simp] theorem raise_lines (n : Notice) (s : State) :
    (raise n s).lines = s.lines := rfl
@[simp] theorem raise_freeCount (n : Notice) (s : State) :
    (raise n s).freeCount = s.freeCount := rfl
@[simp] theorem raise_pending (n : Notice) (s : State) :
    (raise n s).pending = s.pending := rfl
@[simp] theorem sendStatus_controlPort (m : List Byte) (s : State) :
   (sendStatus m s).controlPort = s.controlPort := rfl
@[simp] theorem sendStatus_accountUnit (m : List Byte) (s : State) :
   (sendStatus m s).accountUnit = s.accountUnit := rfl
@[simp] theorem sendStatus_jobUnit (m : List Byte) (s : State) :
   (sendStatus m s).jobUnit = s.jobUnit := rfl
@[simp] theorem sendStatus_sheetLink (m : List Byte) (s : State) :
   (sendStatus m s).sheetLink = s.sheetLink := rfl
@[simp] theorem sendStatus_stationUnit (m : List Byte) (s : State) :
   (sendStatus m s).stationUnit = s.stationUnit := rfl
@[simp] theorem sendStatus_holdUnit (m : List Byte) (s : State) :
   (sendStatus m s).holdUnit = s.holdUnit := rfl
@[simp] theorem sendStatus_randomSource (m : List Byte) (s : State) :
   (sendStatus m s).randomSource = s.randomSource := rfl
@[simp] theorem sendStatus_noticeUnit (m : List Byte) (s : State) :
   (sendStatus m s).noticeUnit = s.noticeUnit := rfl
@[simp] theorem sendStatus_retentionUnit (m : List Byte) (s : State) :
   (sendStatus m s).retentionUnit = s.retentionUnit := rfl
@[simp] theorem sendStatus_imageMemory (m : List Byte) (s : State) :
   (sendStatus m s).imageMemory = s.imageMemory := rfl
@[simp] theorem sendStatus_lines (m : List Byte) (s : State) :
   (sendStatus m s).lines = s.lines := rfl
@[simp] theorem sendStatus_freeCount (m : List Byte) (s : State) :
   (sendStatus m s).freeCount = s.freeCount := rfl
@[simp] theorem sendStatus_pending (m : List Byte) (s : State) :
   (sendStatus m s).pending = s.pending := rfl
@[simp] theorem stopStreamer_controlPort (s : State) :
   (stopStreamer s).controlPort = s.controlPort := rfl
@[simp] theorem stopStreamer_accountUnit (s : State) :
   (stopStreamer s).accountUnit = s.accountUnit := rfl
@[simp] theorem stopStreamer_jobUnit (s : State) :
   (stopStreamer s).jobUnit = s.jobUnit := rfl
@[simp] theorem stopStreamer_sheetLink (s : State) :
   (stopStreamer s).sheetLink = s.sheetLink := rfl
@[simp] theorem stopStreamer_stationUnit (s : State) :
   (stopStreamer s).stationUnit = s.stationUnit := rfl
@[simp] theorem stopStreamer_captureUnit (s : State) :
   (stopStreamer s).captureUnit = s.captureUnit := rfl
@[simp] theorem stopStreamer_randomSource (s : State) :
   (stopStreamer s).randomSource = s.randomSource := rfl
@[simp] theorem stopStreamer_noticeUnit (s : State) :
   (stopStreamer s).noticeUnit = s.noticeUnit := rfl
@[simp] theorem stopStreamer_retentionUnit (s : State) :
   (stopStreamer s).retentionUnit = s.retentionUnit := rfl
@[simp] theorem stopStreamer_imageMemory (s : State) :
   (stopStreamer s).imageMemory = s.imageMemory := rfl
@[simp] theorem stopStreamer_lines (s : State) :
   (stopStreamer s).lines = s.lines := rfl
@[simp] theorem stopStreamer_freeCount (s : State) :
   (stopStreamer s).freeCount = s.freeCount := rfl
@[simp] theorem stopStreamer_pending (s : State) :
   (stopStreamer s).pending = s.pending := rfl
@[simp] theorem unbindPort_controlPort (s : State) :
    (unbindPort s).controlPort = s.controlPort := rfl
@[simp] theorem unbindPort_accountUnit (s : State) :
    (unbindPort s).accountUnit = s.accountUnit := rfl
@[simp] theorem unbindPort_jobUnit (s : State) :
    (unbindPort s).jobUnit = s.jobUnit := rfl
@[simp] theorem unbindPort_sheetLink (s : State) :
    (unbindPort s).sheetLink = s.sheetLink := rfl
@[simp] theorem unbindPort_stationUnit (s : State) :
    (unbindPort s).stationUnit = s.stationUnit := rfl
@[simp] theorem unbindPort_holdUnit (s : State) :
    (unbindPort s).holdUnit = s.holdUnit := rfl
@[simp] theorem unbindPort_randomSource (s : State) :
    (unbindPort s).randomSource = s.randomSource := rfl
@[simp] theorem unbindPort_noticeUnit (s : State) :
    (unbindPort s).noticeUnit = s.noticeUnit := rfl
@[simp] theorem unbindPort_retentionUnit (s : State) :
    (unbindPort s).retentionUnit = s.retentionUnit := rfl
@[simp] theorem unbindPort_imageMemory (s : State) :
    (unbindPort s).imageMemory = s.imageMemory := rfl
@[simp] theorem unbindPort_lines (s : State) :
    (unbindPort s).lines = s.lines := rfl
@[simp] theorem unbindPort_freeCount (s : State) :
    (unbindPort s).freeCount = s.freeCount := rfl
@[simp] theorem unbindPort_pending (s : State) :
    (unbindPort s).pending = s.pending := rfl
@[simp] theorem freeBands_controlPort (ns : List Nat) (s : State) :
    (freeBands ns s).controlPort = s.controlPort := rfl
@[simp] theorem freeBands_accountUnit (ns : List Nat) (s : State) :
    (freeBands ns s).accountUnit = s.accountUnit := rfl
@[simp] theorem freeBands_jobUnit (ns : List Nat) (s : State) :
    (freeBands ns s).jobUnit = s.jobUnit := rfl
@[simp] theorem freeBands_sheetLink (ns : List Nat) (s : State) :
    (freeBands ns s).sheetLink = s.sheetLink := rfl
@[simp] theorem freeBands_stationUnit (ns : List Nat) (s : State) :
    (freeBands ns s).stationUnit = s.stationUnit := rfl
@[simp] theorem freeBands_holdUnit (ns : List Nat) (s : State) :
    (freeBands ns s).holdUnit = s.holdUnit := rfl
@[simp] theorem freeBands_randomSource (ns : List Nat) (s : State) :
    (freeBands ns s).randomSource = s.randomSource := rfl
@[simp] theorem freeBands_noticeUnit (ns : List Nat) (s : State) :
    (freeBands ns s).noticeUnit = s.noticeUnit := rfl
@[simp] theorem freeBands_retentionUnit (ns : List Nat) (s : State) :
    (freeBands ns s).retentionUnit = s.retentionUnit := rfl
@[simp] theorem freeBands_imageMemory (ns : List Nat) (s : State) :
    (freeBands ns s).imageMemory = s.imageMemory := rfl
@[simp] theorem freeBands_lines (ns : List Nat) (s : State) :
    (freeBands ns s).lines = s.lines := rfl
@[simp] theorem freeBands_freeCount (ns : List Nat) (s : State) :
    (freeBands ns s).freeCount = s.freeCount := rfl
@[simp] theorem freeBands_pending (ns : List Nat) (s : State) :
    (freeBands ns s).pending = s.pending := rfl
@[simp] theorem issueStops_controlPort (i : Nat) (w : StopReason) (s : State) :
    (issueStops i w s).controlPort = s.controlPort := rfl
@[simp] theorem issueStops_accountUnit (i : Nat) (w : StopReason) (s : State) :
    (issueStops i w s).accountUnit = s.accountUnit := rfl
@[simp] theorem issueStops_sheetLink (i : Nat) (w : StopReason) (s : State) :
    (issueStops i w s).sheetLink = s.sheetLink := rfl
@[simp] theorem issueStops_stationUnit (i : Nat) (w : StopReason) (s : State) :
    (issueStops i w s).stationUnit = s.stationUnit := rfl
@[simp] theorem issueStops_captureUnit (i : Nat) (w : StopReason) (s : State) :
    (issueStops i w s).captureUnit = s.captureUnit := rfl
@[simp] theorem issueStops_holdUnit (i : Nat) (w : StopReason) (s : State) :
    (issueStops i w s).holdUnit = s.holdUnit := rfl
@[simp] theorem issueStops_randomSource (i : Nat) (w : StopReason) (s : State) :
    (issueStops i w s).randomSource = s.randomSource := rfl
@[simp] theorem issueStops_noticeUnit (i : Nat) (w : StopReason) (s : State) :
    (issueStops i w s).noticeUnit = s.noticeUnit := rfl
@[simp] theorem issueStops_retentionUnit (i : Nat) (w : StopReason) (s : State) :
    (issueStops i w s).retentionUnit = s.retentionUnit := rfl
@[simp] theorem issueStops_imageMemory (i : Nat) (w : StopReason) (s : State) :
    (issueStops i w s).imageMemory = s.imageMemory := rfl
@[simp] theorem issueStops_lines (i : Nat) (w : StopReason) (s : State) :
    (issueStops i w s).lines = s.lines := rfl
@[simp] theorem issueStops_freeCount (i : Nat) (w : StopReason) (s : State) :
    (issueStops i w s).freeCount = s.freeCount := rfl
@[simp] theorem issueStops_pending (i : Nat) (w : StopReason) (s : State) :
    (issueStops i w s).pending = s.pending := rfl
@[simp] theorem setWalk_controlPort (w : Option Walk) (s : State) :
   (setWalk w s).controlPort = s.controlPort := rfl
@[simp] theorem setWalk_accountUnit (w : Option Walk) (s : State) :
   (setWalk w s).accountUnit = s.accountUnit := rfl
@[simp] theorem setWalk_jobUnit (w : Option Walk) (s : State) :
   (setWalk w s).jobUnit = s.jobUnit := rfl
@[simp] theorem setWalk_sheetLink (w : Option Walk) (s : State) :
   (setWalk w s).sheetLink = s.sheetLink := rfl
@[simp] theorem setWalk_stationUnit (w : Option Walk) (s : State) :
   (setWalk w s).stationUnit = s.stationUnit := rfl
@[simp] theorem setWalk_captureUnit (w : Option Walk) (s : State) :
   (setWalk w s).captureUnit = s.captureUnit := rfl
@[simp] theorem setWalk_holdUnit (w : Option Walk) (s : State) :
   (setWalk w s).holdUnit = s.holdUnit := rfl
@[simp] theorem setWalk_randomSource (w : Option Walk) (s : State) :
   (setWalk w s).randomSource = s.randomSource := rfl
@[simp] theorem setWalk_noticeUnit (w : Option Walk) (s : State) :
   (setWalk w s).noticeUnit = s.noticeUnit := rfl
@[simp] theorem setWalk_imageMemory (w : Option Walk) (s : State) :
   (setWalk w s).imageMemory = s.imageMemory := rfl
@[simp] theorem setWalk_lines (w : Option Walk) (s : State) :
   (setWalk w s).lines = s.lines := rfl
@[simp] theorem setWalk_freeCount (w : Option Walk) (s : State) :
   (setWalk w s).freeCount = s.freeCount := rfl
@[simp] theorem setWalk_pending (w : Option Walk) (s : State) :
   (setWalk w s).pending = s.pending := rfl
@[simp] theorem takeGo_accountUnit (s : State) :
    (takeGo s).accountUnit = s.accountUnit := rfl
@[simp] theorem takeGo_jobUnit (s : State) :
    (takeGo s).jobUnit = s.jobUnit := rfl
@[simp] theorem takeGo_sheetLink (s : State) :
    (takeGo s).sheetLink = s.sheetLink := rfl
@[simp] theorem takeGo_stationUnit (s : State) :
    (takeGo s).stationUnit = s.stationUnit := rfl
@[simp] theorem takeGo_captureUnit (s : State) :
    (takeGo s).captureUnit = s.captureUnit := rfl
@[simp] theorem takeGo_holdUnit (s : State) :
    (takeGo s).holdUnit = s.holdUnit := rfl
@[simp] theorem takeGo_randomSource (s : State) :
    (takeGo s).randomSource = s.randomSource := rfl
@[simp] theorem takeGo_noticeUnit (s : State) :
    (takeGo s).noticeUnit = s.noticeUnit := rfl
@[simp] theorem takeGo_retentionUnit (s : State) :
    (takeGo s).retentionUnit = s.retentionUnit := rfl
@[simp] theorem takeGo_imageMemory (s : State) :
    (takeGo s).imageMemory = s.imageMemory := rfl
@[simp] theorem takeGo_lines (s : State) :
    (takeGo s).lines = s.lines := rfl
@[simp] theorem takeGo_freeCount (s : State) :
    (takeGo s).freeCount = s.freeCount := rfl
@[simp] theorem takeGo_pending (s : State) :
    (takeGo s).pending = s.pending := rfl
@[simp] theorem collide_accountUnit (s : State) :
    (collide s).accountUnit = s.accountUnit := rfl
@[simp] theorem collide_jobUnit (s : State) :
    (collide s).jobUnit = s.jobUnit := rfl
@[simp] theorem collide_sheetLink (s : State) :
    (collide s).sheetLink = s.sheetLink := rfl
@[simp] theorem collide_stationUnit (s : State) :
    (collide s).stationUnit = s.stationUnit := rfl
@[simp] theorem collide_captureUnit (s : State) :
    (collide s).captureUnit = s.captureUnit := rfl
@[simp] theorem collide_holdUnit (s : State) :
    (collide s).holdUnit = s.holdUnit := rfl
@[simp] theorem collide_randomSource (s : State) :
    (collide s).randomSource = s.randomSource := rfl
@[simp] theorem collide_noticeUnit (s : State) :
    (collide s).noticeUnit = s.noticeUnit := rfl
@[simp] theorem collide_retentionUnit (s : State) :
    (collide s).retentionUnit = s.retentionUnit := rfl
@[simp] theorem collide_imageMemory (s : State) :
    (collide s).imageMemory = s.imageMemory := rfl
@[simp] theorem collide_lines (s : State) :
    (collide s).lines = s.lines := rfl
@[simp] theorem collide_freeCount (s : State) :
    (collide s).freeCount = s.freeCount := rfl
@[simp] theorem collide_pending (s : State) :
    (collide s).pending = s.pending := rfl
@[simp] theorem storeCommandBytes_accountUnit (o : Nat) (b : List Byte) (s : State) :
   (storeCommandBytes o b s).accountUnit = s.accountUnit := rfl
@[simp] theorem storeCommandBytes_jobUnit (o : Nat) (b : List Byte) (s : State) :
   (storeCommandBytes o b s).jobUnit = s.jobUnit := rfl
@[simp] theorem storeCommandBytes_sheetLink (o : Nat) (b : List Byte) (s : State) :
   (storeCommandBytes o b s).sheetLink = s.sheetLink := rfl
@[simp] theorem storeCommandBytes_stationUnit (o : Nat) (b : List Byte) (s : State) :
   (storeCommandBytes o b s).stationUnit = s.stationUnit := rfl
@[simp] theorem storeCommandBytes_captureUnit (o : Nat) (b : List Byte) (s : State) :
   (storeCommandBytes o b s).captureUnit = s.captureUnit := rfl
@[simp] theorem storeCommandBytes_holdUnit (o : Nat) (b : List Byte) (s : State) :
   (storeCommandBytes o b s).holdUnit = s.holdUnit := rfl
@[simp] theorem storeCommandBytes_randomSource (o : Nat) (b : List Byte) (s : State) :
   (storeCommandBytes o b s).randomSource = s.randomSource := rfl
@[simp] theorem storeCommandBytes_noticeUnit (o : Nat) (b : List Byte) (s : State) :
   (storeCommandBytes o b s).noticeUnit = s.noticeUnit := rfl
@[simp] theorem storeCommandBytes_retentionUnit (o : Nat) (b : List Byte) (s : State) :
   (storeCommandBytes o b s).retentionUnit = s.retentionUnit := rfl
@[simp] theorem storeCommandBytes_imageMemory (o : Nat) (b : List Byte) (s : State) :
   (storeCommandBytes o b s).imageMemory = s.imageMemory := rfl
@[simp] theorem storeCommandBytes_lines (o : Nat) (b : List Byte) (s : State) :
   (storeCommandBytes o b s).lines = s.lines := rfl
@[simp] theorem storeCommandBytes_freeCount (o : Nat) (b : List Byte) (s : State) :
   (storeCommandBytes o b s).freeCount = s.freeCount := rfl
@[simp] theorem storeCommandBytes_pending (o : Nat) (b : List Byte) (s : State) :
   (storeCommandBytes o b s).pending = s.pending := rfl
@[simp] theorem storeRequest_accountUnit (c : Nat) (r : Request) (s : State) :
   (storeRequest c r s).accountUnit = s.accountUnit := rfl
@[simp] theorem storeRequest_jobUnit (c : Nat) (r : Request) (s : State) :
   (storeRequest c r s).jobUnit = s.jobUnit := rfl
@[simp] theorem storeRequest_sheetLink (c : Nat) (r : Request) (s : State) :
   (storeRequest c r s).sheetLink = s.sheetLink := rfl
@[simp] theorem storeRequest_stationUnit (c : Nat) (r : Request) (s : State) :
   (storeRequest c r s).stationUnit = s.stationUnit := rfl
@[simp] theorem storeRequest_captureUnit (c : Nat) (r : Request) (s : State) :
   (storeRequest c r s).captureUnit = s.captureUnit := rfl
@[simp] theorem storeRequest_holdUnit (c : Nat) (r : Request) (s : State) :
   (storeRequest c r s).holdUnit = s.holdUnit := rfl
@[simp] theorem storeRequest_randomSource (c : Nat) (r : Request) (s : State) :
   (storeRequest c r s).randomSource = s.randomSource := rfl
@[simp] theorem storeRequest_noticeUnit (c : Nat) (r : Request) (s : State) :
   (storeRequest c r s).noticeUnit = s.noticeUnit := rfl
@[simp] theorem storeRequest_retentionUnit (c : Nat) (r : Request) (s : State) :
   (storeRequest c r s).retentionUnit = s.retentionUnit := rfl
@[simp] theorem storeRequest_imageMemory (c : Nat) (r : Request) (s : State) :
   (storeRequest c r s).imageMemory = s.imageMemory := rfl
@[simp] theorem storeRequest_lines (c : Nat) (r : Request) (s : State) :
   (storeRequest c r s).lines = s.lines := rfl
@[simp] theorem storeRequest_freeCount (c : Nat) (r : Request) (s : State) :
   (storeRequest c r s).freeCount = s.freeCount := rfl
@[simp] theorem storeRequest_pending (c : Nat) (r : Request) (s : State) :
   (storeRequest c r s).pending = s.pending := rfl
@[simp] theorem place_accountUnit (x : Response × List Byte) (s : State) :
    (place x s).accountUnit = s.accountUnit := rfl
@[simp] theorem place_jobUnit (x : Response × List Byte) (s : State) :
    (place x s).jobUnit = s.jobUnit := rfl
@[simp] theorem place_sheetLink (x : Response × List Byte) (s : State) :
    (place x s).sheetLink = s.sheetLink := rfl
@[simp] theorem place_stationUnit (x : Response × List Byte) (s : State) :
    (place x s).stationUnit = s.stationUnit := rfl
@[simp] theorem place_captureUnit (x : Response × List Byte) (s : State) :
    (place x s).captureUnit = s.captureUnit := rfl
@[simp] theorem place_holdUnit (x : Response × List Byte) (s : State) :
    (place x s).holdUnit = s.holdUnit := rfl
@[simp] theorem place_randomSource (x : Response × List Byte) (s : State) :
    (place x s).randomSource = s.randomSource := rfl
@[simp] theorem place_noticeUnit (x : Response × List Byte) (s : State) :
    (place x s).noticeUnit = s.noticeUnit := rfl
@[simp] theorem place_retentionUnit (x : Response × List Byte) (s : State) :
    (place x s).retentionUnit = s.retentionUnit := rfl
@[simp] theorem place_imageMemory (x : Response × List Byte) (s : State) :
    (place x s).imageMemory = s.imageMemory := rfl
@[simp] theorem place_lines (x : Response × List Byte) (s : State) :
    (place x s).lines = s.lines := rfl
@[simp] theorem place_freeCount (x : Response × List Byte) (s : State) :
    (place x s).freeCount = s.freeCount := rfl
@[simp] theorem place_pending (x : Response × List Byte) (s : State) :
    (place x s).pending = s.pending := rfl
@[simp] theorem raiseMinute_controlPort (s : State) :
    (raiseMinute s).controlPort = s.controlPort := rfl
@[simp] theorem raiseMinute_accountUnit (s : State) :
    (raiseMinute s).accountUnit = s.accountUnit := rfl
@[simp] theorem raiseMinute_jobUnit (s : State) :
    (raiseMinute s).jobUnit = s.jobUnit := rfl
@[simp] theorem raiseMinute_sheetLink (s : State) :
    (raiseMinute s).sheetLink = s.sheetLink := rfl
@[simp] theorem raiseMinute_stationUnit (s : State) :
    (raiseMinute s).stationUnit = s.stationUnit := rfl
@[simp] theorem raiseMinute_captureUnit (s : State) :
    (raiseMinute s).captureUnit = s.captureUnit := rfl
@[simp] theorem raiseMinute_randomSource (s : State) :
    (raiseMinute s).randomSource = s.randomSource := rfl
@[simp] theorem raiseMinute_noticeUnit (s : State) :
    (raiseMinute s).noticeUnit = s.noticeUnit := rfl
@[simp] theorem raiseMinute_retentionUnit (s : State) :
    (raiseMinute s).retentionUnit = s.retentionUnit := rfl
@[simp] theorem raiseMinute_imageMemory (s : State) :
    (raiseMinute s).imageMemory = s.imageMemory := rfl
@[simp] theorem raiseMinute_lines (s : State) :
    (raiseMinute s).lines = s.lines := rfl
@[simp] theorem raiseMinute_freeCount (s : State) :
    (raiseMinute s).freeCount = s.freeCount := rfl
@[simp] theorem raiseMinute_pending (s : State) :
    (raiseMinute s).pending = s.pending := rfl
@[simp] theorem owesWalk_controlPort (s : State) :
    (owesWalk s).controlPort = s.controlPort := rfl
@[simp] theorem owesWalk_accountUnit (s : State) :
    (owesWalk s).accountUnit = s.accountUnit := rfl
@[simp] theorem owesWalk_jobUnit (s : State) :
    (owesWalk s).jobUnit = s.jobUnit := rfl
@[simp] theorem owesWalk_sheetLink (s : State) :
    (owesWalk s).sheetLink = s.sheetLink := rfl
@[simp] theorem owesWalk_stationUnit (s : State) :
    (owesWalk s).stationUnit = s.stationUnit := rfl
@[simp] theorem owesWalk_captureUnit (s : State) :
    (owesWalk s).captureUnit = s.captureUnit := rfl
@[simp] theorem owesWalk_randomSource (s : State) :
    (owesWalk s).randomSource = s.randomSource := rfl
@[simp] theorem owesWalk_noticeUnit (s : State) :
    (owesWalk s).noticeUnit = s.noticeUnit := rfl
@[simp] theorem owesWalk_retentionUnit (s : State) :
    (owesWalk s).retentionUnit = s.retentionUnit := rfl
@[simp] theorem owesWalk_imageMemory (s : State) :
    (owesWalk s).imageMemory = s.imageMemory := rfl
@[simp] theorem owesWalk_lines (s : State) :
    (owesWalk s).lines = s.lines := rfl
@[simp] theorem owesWalk_freeCount (s : State) :
    (owesWalk s).freeCount = s.freeCount := rfl
@[simp] theorem owesWalk_pending (s : State) :
    (owesWalk s).pending = s.pending := rfl
@[simp] theorem endDraw_controlPort (o : DrawOutput) (s : State) :
    (endDraw o s).controlPort = s.controlPort := rfl
@[simp] theorem endDraw_accountUnit (o : DrawOutput) (s : State) :
    (endDraw o s).accountUnit = s.accountUnit := rfl
@[simp] theorem endDraw_jobUnit (o : DrawOutput) (s : State) :
    (endDraw o s).jobUnit = s.jobUnit := rfl
@[simp] theorem endDraw_sheetLink (o : DrawOutput) (s : State) :
    (endDraw o s).sheetLink = s.sheetLink := rfl
@[simp] theorem endDraw_stationUnit (o : DrawOutput) (s : State) :
    (endDraw o s).stationUnit = s.stationUnit := rfl
@[simp] theorem endDraw_captureUnit (o : DrawOutput) (s : State) :
    (endDraw o s).captureUnit = s.captureUnit := rfl
@[simp] theorem endDraw_holdUnit (o : DrawOutput) (s : State) :
    (endDraw o s).holdUnit = s.holdUnit := rfl
@[simp] theorem endDraw_noticeUnit (o : DrawOutput) (s : State) :
    (endDraw o s).noticeUnit = s.noticeUnit := rfl
@[simp] theorem endDraw_retentionUnit (o : DrawOutput) (s : State) :
    (endDraw o s).retentionUnit = s.retentionUnit := rfl
@[simp] theorem endDraw_imageMemory (o : DrawOutput) (s : State) :
    (endDraw o s).imageMemory = s.imageMemory := rfl
@[simp] theorem endDraw_lines (o : DrawOutput) (s : State) :
    (endDraw o s).lines = s.lines := rfl
@[simp] theorem endDraw_freeCount (o : DrawOutput) (s : State) :
    (endDraw o s).freeCount = s.freeCount := rfl
@[simp] theorem endDraw_pending (o : DrawOutput) (s : State) :
    (endDraw o s).pending = s.pending := rfl
@[simp] theorem discardLine_controlPort (s : State) :
    (discardLine s).controlPort = s.controlPort := rfl
@[simp] theorem discardLine_accountUnit (s : State) :
    (discardLine s).accountUnit = s.accountUnit := rfl
@[simp] theorem discardLine_jobUnit (s : State) :
    (discardLine s).jobUnit = s.jobUnit := rfl
@[simp] theorem discardLine_sheetLink (s : State) :
    (discardLine s).sheetLink = s.sheetLink := rfl
@[simp] theorem discardLine_stationUnit (s : State) :
    (discardLine s).stationUnit = s.stationUnit := rfl
@[simp] theorem discardLine_holdUnit (s : State) :
    (discardLine s).holdUnit = s.holdUnit := rfl
@[simp] theorem discardLine_randomSource (s : State) :
    (discardLine s).randomSource = s.randomSource := rfl
@[simp] theorem discardLine_noticeUnit (s : State) :
    (discardLine s).noticeUnit = s.noticeUnit := rfl
@[simp] theorem discardLine_retentionUnit (s : State) :
    (discardLine s).retentionUnit = s.retentionUnit := rfl
@[simp] theorem discardLine_imageMemory (s : State) :
    (discardLine s).imageMemory = s.imageMemory := rfl
@[simp] theorem discardLine_lines (s : State) :
    (discardLine s).lines = s.lines := rfl
@[simp] theorem discardLine_freeCount (s : State) :
    (discardLine s).freeCount = s.freeCount := rfl
@[simp] theorem discardLine_pending (s : State) :
    (discardLine s).pending = s.pending := rfl
@[simp] theorem removeSheet_controlPort (n : BitVec 16) (s : State) :
    (removeSheet n s).controlPort = s.controlPort := rfl
@[simp] theorem removeSheet_accountUnit (n : BitVec 16) (s : State) :
    (removeSheet n s).accountUnit = s.accountUnit := rfl
@[simp] theorem removeSheet_jobUnit (n : BitVec 16) (s : State) :
    (removeSheet n s).jobUnit = s.jobUnit := rfl
@[simp] theorem removeSheet_stationUnit (n : BitVec 16) (s : State) :
    (removeSheet n s).stationUnit = s.stationUnit := rfl
@[simp] theorem removeSheet_captureUnit (n : BitVec 16) (s : State) :
    (removeSheet n s).captureUnit = s.captureUnit := rfl
@[simp] theorem removeSheet_holdUnit (n : BitVec 16) (s : State) :
    (removeSheet n s).holdUnit = s.holdUnit := rfl
@[simp] theorem removeSheet_randomSource (n : BitVec 16) (s : State) :
    (removeSheet n s).randomSource = s.randomSource := rfl
@[simp] theorem removeSheet_noticeUnit (n : BitVec 16) (s : State) :
    (removeSheet n s).noticeUnit = s.noticeUnit := rfl
@[simp] theorem removeSheet_retentionUnit (n : BitVec 16) (s : State) :
    (removeSheet n s).retentionUnit = s.retentionUnit := rfl
@[simp] theorem removeSheet_imageMemory (n : BitVec 16) (s : State) :
    (removeSheet n s).imageMemory = s.imageMemory := rfl
@[simp] theorem removeSheet_lines (n : BitVec 16) (s : State) :
    (removeSheet n s).lines = s.lines := rfl
@[simp] theorem removeSheet_freeCount (n : BitVec 16) (s : State) :
    (removeSheet n s).freeCount = s.freeCount := rfl
@[simp] theorem removeSheet_pending (n : BitVec 16) (s : State) :
    (removeSheet n s).pending = s.pending := rfl
@[simp] theorem sendAnswer_controlPort (f : List Byte) (s : State) :
    (sendAnswer f s).controlPort = s.controlPort := rfl
@[simp] theorem sendAnswer_accountUnit (f : List Byte) (s : State) :
    (sendAnswer f s).accountUnit = s.accountUnit := rfl
@[simp] theorem sendAnswer_jobUnit (f : List Byte) (s : State) :
    (sendAnswer f s).jobUnit = s.jobUnit := rfl
@[simp] theorem sendAnswer_stationUnit (f : List Byte) (s : State) :
    (sendAnswer f s).stationUnit = s.stationUnit := rfl
@[simp] theorem sendAnswer_captureUnit (f : List Byte) (s : State) :
    (sendAnswer f s).captureUnit = s.captureUnit := rfl
@[simp] theorem sendAnswer_holdUnit (f : List Byte) (s : State) :
    (sendAnswer f s).holdUnit = s.holdUnit := rfl
@[simp] theorem sendAnswer_randomSource (f : List Byte) (s : State) :
    (sendAnswer f s).randomSource = s.randomSource := rfl
@[simp] theorem sendAnswer_noticeUnit (f : List Byte) (s : State) :
    (sendAnswer f s).noticeUnit = s.noticeUnit := rfl
@[simp] theorem sendAnswer_retentionUnit (f : List Byte) (s : State) :
    (sendAnswer f s).retentionUnit = s.retentionUnit := rfl
@[simp] theorem sendAnswer_imageMemory (f : List Byte) (s : State) :
    (sendAnswer f s).imageMemory = s.imageMemory := rfl
@[simp] theorem sendAnswer_lines (f : List Byte) (s : State) :
    (sendAnswer f s).lines = s.lines := rfl
@[simp] theorem sendAnswer_freeCount (f : List Byte) (s : State) :
    (sendAnswer f s).freeCount = s.freeCount := rfl
@[simp] theorem sendAnswer_pending (f : List Byte) (s : State) :
    (sendAnswer f s).pending = s.pending := rfl
@[simp] theorem badFrame_controlPort (s : State) :
    (badFrame s).controlPort = s.controlPort := rfl
@[simp] theorem badFrame_accountUnit (s : State) :
    (badFrame s).accountUnit = s.accountUnit := rfl
@[simp] theorem badFrame_jobUnit (s : State) :
    (badFrame s).jobUnit = s.jobUnit := rfl
@[simp] theorem badFrame_stationUnit (s : State) :
    (badFrame s).stationUnit = s.stationUnit := rfl
@[simp] theorem badFrame_captureUnit (s : State) :
    (badFrame s).captureUnit = s.captureUnit := rfl
@[simp] theorem badFrame_holdUnit (s : State) :
    (badFrame s).holdUnit = s.holdUnit := rfl
@[simp] theorem badFrame_randomSource (s : State) :
    (badFrame s).randomSource = s.randomSource := rfl
@[simp] theorem badFrame_retentionUnit (s : State) :
    (badFrame s).retentionUnit = s.retentionUnit := rfl
@[simp] theorem badFrame_imageMemory (s : State) :
    (badFrame s).imageMemory = s.imageMemory := rfl
@[simp] theorem badFrame_lines (s : State) :
    (badFrame s).lines = s.lines := rfl
@[simp] theorem badFrame_freeCount (s : State) :
    (badFrame s).freeCount = s.freeCount := rfl
@[simp] theorem badFrame_pending (s : State) :
    (badFrame s).pending = s.pending := rfl

end Sys2Proof.Machine
end

