-- ==== Sys2Proof/Laws/Control.lean ====
section
/-! SUPPORT. The command cycle: a record that is written is the record that is taken, and an answer that is
placed is the answer that is read. -/
namespace Sys2Proof.Machine

/-- The state in which a command's handling begins: the record stored and the GO taken. -/
def started (code : Nat) (r : Request) (s : State) : State := takeGo (storeRequest code r s)

/-- The answer placed is the answer read (R184). -/
theorem response_place (code : Response) (body : List Byte) (s : State) (h : body.length < 65536) :
    response (place (code, body) s) = (code.code, body) := by
  have hc : code.code < 256 ^ 2 := by cases code <;> decide
  have e1 := Memory.readBytes_writeBytes_at [] (le 2 code.code) (le 2 body.length ++ body) [] 0
  have e2 := Memory.readBytes_writeBytes_at (le 2 code.code) (le 2 body.length) body [] 0
  have e3 := Memory.readBytes_writeBytes_at (le 2 code.code ++ le 2 body.length) body [] [] 0
  simp only [List.nil_append, List.length_nil, List.length_append, length_le, List.append_nil,
    List.append_assoc, Nat.zero_add, Nat.reduceAdd] at e1 e2 e3
  have e2' : Memory.readBytes (Memory.writeBytes [] 0 (le 2 code.code ++ (le 2 body.length ++ body))) 2 2
      = le 2 body.length := e2
  simp only [response, place, List.append_assoc, e1, e2', ofLe_le_of_lt hc]
  rw [ofLe_le_of_lt (by simpa using h), e3]

@[simp] theorem phase_place (code : Response) (body : List Byte) (s : State) :
    (place (code, body) s).controlPort.phase = if code = .accepted then .accepted else .done := rfl

@[simp] theorem collision_place (x : Response × List Byte) (s : State) :
    (place x s).controlPort.collision = s.controlPort.collision := rfl

theorem storeRequest_area (code : Nat) (r : Request) (s : State) (h : r.body.length ≤ 124) :
    (storeRequest code r s).controlPort.commandArea =
      Memory.writeBytes s.controlPort.commandArea 0 (le 2 code ++ le 2 r.length.toNat ++ r.body) := by
  have hl : (le 2 code ++ le 2 r.length.toNat ++ r.body).length ≤ Config.areaBytes - 0 := by
    simp only [List.length_append, length_le, Config.areaBytes]; omega
  simp only [storeRequest, storeCommandBytes, List.take_of_length_le hl]

/-- The command code written is the code taken. -/
theorem areaCode_started (code : Nat) (r : Request) (s : State) (h : r.body.length ≤ 124) (hc : code < 65536) :
    areaCode (started code r s) = code := by
  have e1 := Memory.readBytes_writeBytes_at [] (le 2 code) (le 2 r.length.toNat ++ r.body) s.controlPort.commandArea 0
  simp only [List.nil_append, List.length_nil, length_le, Nat.zero_add] at e1
  have hs : (started code r s).controlPort.commandArea = (storeRequest code r s).controlPort.commandArea := rfl
  simp only [areaCode, hs, storeRequest_area code r s h, List.append_assoc, e1]
  exact ofLe_le_of_lt (by simpa using hc)

/-- The body length written is the length taken. -/
theorem areaLength_started (code : Nat) (r : Request) (s : State) (h : r.body.length ≤ 124) :
    areaLength (started code r s) = r.length.toNat := by
  have e1 := Memory.readBytes_writeBytes_at (le 2 code) (le 2 r.length.toNat) r.body s.controlPort.commandArea 0
  simp only [length_le, Nat.zero_add] at e1
  have hs : (started code r s).controlPort.commandArea = (storeRequest code r s).controlPort.commandArea := rfl
  simp only [areaLength, hs, storeRequest_area code r s h, e1]
  exact ofLe_le_of_lt (by simpa using r.length.isLt)

/-- The body written is the body taken. -/
theorem areaBody_started (code : Nat) (r : Request) (s : State) (h : r.body.length ≤ 124) :
    areaBody (started code r s) r.body.length = r.body := by
  have e1 := Memory.readBytes_writeBytes_at (le 2 code ++ le 2 r.length.toNat) r.body [] s.controlPort.commandArea 0
  simp only [List.length_append, length_le, List.append_nil, Nat.zero_add, Nat.reduceAdd] at e1
  have hs : (started code r s).controlPort.commandArea = (storeRequest code r s).controlPort.commandArea := rfl
  simp only [areaBody, hs, storeRequest_area code r s h]
  exact e1

/-- A host command whose record gives its whole body: the handler sees that body. -/
theorem command_whole (code length : Nat) (h : Handler) (r : Request) (s : State) (hr : ready s)
    (h1 : r.length.toNat = length) (h2 : r.body.length = length) (h3 : length ≤ 124) :
    command code length h r s =
      conclude ((h r.body (started code r s)).getD (refuse .badField (started code r s))) := by
  subst h2
  unfold command checkAndHand
  have e : takeGo (storeRequest code r s) = started code r s := rfl
  rw [hr.1, if_neg (by simp), if_neg hr.2, e, if_neg (by rw [areaLength_started _ _ _ h3]; simp [h1]),
    areaBody_started _ _ _ h3]

/-- A host command whose body length field is not the defined one is refused with BAD_LENGTH (R183). -/
theorem command_badLength (code length : Nat) (h : Handler) (r : Request) (s : State) (hr : ready s)
    (h1 : r.length.toNat ≠ length) (h2 : r.body.length ≤ 124) :
    command code length h r s = conclude (refuse .badLength (started code r s)) := by
  unfold command checkAndHand
  have e : takeGo (storeRequest code r s) = started code r s := rfl
  rw [hr.1, if_neg (by simp), if_neg hr.2, e, if_pos (by rw [areaLength_started _ _ _ h2]; exact h1)]

/-- A host command whose record carries these fields, handled to an answer: the answer is placed over the state
that the block leaves. -/
theorem command_carries (code length : Nat) (h : Handler) (r : Request) (s u : State) (fields : List Byte)
    (answer : Response × List Byte) (hr : ready s) (hc : carries r length fields) (h3 : length ≤ 124)
    (hh : ∀ padding, h (fields ++ padding) (started code r s) = some (some answer, u)) :
    command code length h r s = place answer u := by
  obtain ⟨h1, h2, padding, hp⟩ := hc
  rw [command_whole code length h r s hr h1 h2 h3, ← hp, hh padding]; rfl

/-- An answer placed is answered, with COLLISION as the handling left it. -/
theorem answers_place {code : Response} {body : List Byte} {u : State} (h : body.length < 65536)
    (hc : u.controlPort.collision = false) : answers (place (code, body) u) code body :=
  ⟨response_place code body u h, rfl, hc⟩

/-- A host command whose record carries these fields, handled to an answer by a block that leaves the control
port alone, answers a next state: the block's, with the answer placed. -/
theorem command_answers {code length : Nat} {h : Handler} {r : Request} {s u : State} {fields body : List Byte}
    {answer : Response} (hr : ready s) (hc : carries r length fields) (h3 : length ≤ 124) (hb : body.length < 65536)
    (hu : u.controlPort = (started code r s).controlPort)
    (hh : ∀ padding, h (fields ++ padding) (started code r s) = some (some (answer, body), u)) :
    ∃ t, Host.Outcome.next (φ := Fault) (ρ := Refusal) (command code length h r s) = .next t ∧
      answers t answer body ∧ t = place (answer, body) u :=
  ⟨_, rfl, by
    rw [command_carries code length h r s u fields (answer, body) hr hc h3 hh]
    exact ⟨answers_place hb (by rw [hu]; rfl), rfl⟩⟩

/-- While a reset is in progress a command is not taken (R179). -/
theorem command_down (code length : Nat) (h : Handler) (r : Request) (s : State) (hd : down s = true) :
    command code length h r s = s := by
  unfold command; rw [if_pos hd]

/-- While the phase is BUSY a command is lost, and COLLISION is set (R182). -/
theorem command_busy (code length : Nat) (h : Handler) (r : Request) (s : State) (hd : down s = false)
    (hb : s.controlPort.phase = .busy) : command code length h r s = collide s := by
  unfold command; rw [hd, if_neg (by simp), if_pos hb]

/-- The handling of a command begins in a state that differs in the control port only. -/
theorem started_rest (code : Nat) (r : Request) (s : State) :
    started code r s = { s with controlPort := (started code r s).controlPort } := rfl

/-! A read of the window (R179). -/

/-- A read that is not the aligned 4-byte read of the stream port leaves the state as it was. -/
theorem windowRead_state {offset length : Nat} (h : ¬ (offset = 0x108 ∧ length = 4)) (s : State) :
    (windowRead offset length s).2 = s := by
  unfold windowRead
  rw [if_neg h]
  repeat' split
  all_goals rfl

/-- A read returns as many bytes as it asks for. -/
@[simp] theorem length_windowRead (offset length : Nat) (s : State) :
    (windowRead offset length s).1.length = length := by
  unfold windowRead
  split
  · rename_i h; simp [h.2]
  · repeat' split
    all_goals simp

/-- While a reset is in progress every read of the window returns zeros. -/
theorem windowRead_down {offset length : Nat} (h : ¬ (offset = 0x108 ∧ length = 4)) {s : State}
    (hd : down s = true) : windowRead offset length s = (List.replicate length 0, s) := by
  unfold windowRead
  rw [if_neg h, if_pos hd]

/-! What the handling of a command reads of the records is what stood there before. -/

@[simp] theorem standby_started (c : Nat) (r : Request) (s : State) :
    standby (started c r s) = standby s := rfl
@[simp] theorem account_started (c : Nat) (r : Request) (s : State) (i : Nat) :
    account (started c r s) i = account s i := rfl
@[simp] theorem accountIndex_started (c : Nat) (r : Request) (s : State) (i : Nat) :
    accountIndex (started c r s) i = accountIndex s i := rfl
@[simp] theorem station_started (c : Nat) (r : Request) (s : State) (i : Station) :
    station (started c r s) i = station s i := rfl
@[simp] theorem keySlot_started (c : Nat) (r : Request) (s : State) (i : Nat) :
    keySlot (started c r s) i = keySlot s i := rfl
@[simp] theorem jobOfTag_started (c : Nat) (r : Request) (s : State) (i : Nat) :
    jobOfTag (started c r s) i = jobOfTag s i := rfl
@[simp] theorem groupPolicy_started (c : Nat) (r : Request) (s : State) (i : Nat) :
    groupPolicy (started c r s) i = groupPolicy s i := rfl
@[simp] theorem faulted_started (c : Nat) (r : Request) (s : State) :
    faulted (started c r s) = faulted s := rfl
@[simp] theorem lowestFree_started (c : Nat) (r : Request) (s : State) :
    lowestFree (started c r s) = lowestFree s := rfl
@[simp] theorem releasingSlot_started (c : Nat) (r : Request) (s : State) :
    releasingSlot (started c r s) = releasingSlot s := rfl
@[simp] theorem slotsOwned_started (c : Nat) (r : Request) (s : State) (i : Nat) :
    slotsOwned i (started c r s) = slotsOwned i s := rfl
@[simp] theorem descriptor_started (c : Nat) (r : Request) (s : State) (i : Nat) :
    descriptor (started c r s) i = descriptor s i := rfl

end Sys2Proof.Machine
end

