-- ==== Sys2Proof/Laws/Ops.lean ====
section
/-! SUPPORT. What the shared operations over the records do: what each record reads as after them. -/
namespace Sys2Proof.Machine

/-! ### Stations -/

theorem get_set {α : Type} (p : PerStation α) (st st' : Station) (v : α) :
    (p.set st v).get st' = if st' = st then v else p.get st' := by
  cases st <;> cases st' <;> rfl

@[simp] theorem get_set_same {α : Type} (p : PerStation α) (st : Station) (v : α) : (p.set st v).get st = v := by
  cases st <;> rfl

theorem station_putStation (st st' : Station) (x : StationRecord) (s : State) :
    station (putStation st x s) st' = if st' = st then x else station s st' := get_set ..

@[simp] theorem station_putStation_same (st : Station) (x : StationRecord) (s : State) :
    station (putStation st x s) st = x := by simp [station_putStation]

/-! ### Accounts -/

theorem account_putAccount (i j : Nat) (a : Account) (s : State) :
    account (putAccount i a s) j = if j = i then a else account s j := Table.read_write ..

@[simp] theorem account_putAccount_same (i : Nat) (a : Account) (s : State) : account (putAccount i a s) i = a := by
  simp [account_putAccount]

@[simp] theorem account_touchAccount (i j : Nat) (s : State) : account (touchAccount i s) j = account s j := rfl

/-- The entry an update leaves: preserved falls when a field of R4 changed. -/
def updated (a b : Account) : Account := if sameForImage a b then { b with preserved := a.preserved } else { b with preserved := false }

/-- What every account reads as after an update. -/
theorem account_updateAccount (i j : Nat) (f : Account → Account) (s : State) :
    account (updateAccount i f s) j = if j = i then updated (account s i) (f (account s i)) else account s j := by
  unfold updateAccount updated
  simp only
  split <;> simp [account_putAccount]

@[simp] theorem account_updateAccount_same (i : Nat) (f : Account → Account) (s : State) :
    account (updateAccount i f s) i = updated (account s i) (f (account s i)) := by simp [account_updateAccount]

/-- An update of an account changes the account unit and the walk's marks only. -/
theorem updateAccount_rest (i : Nat) (f : Account → Account) (s : State) :
    updateAccount i f s =
      { s with accountUnit := (updateAccount i f s).accountUnit, retentionUnit := (updateAccount i f s).retentionUnit } := by
  unfold updateAccount
  simp only
  split <;> rfl

@[simp] theorem updateAccount_controlPort (i : Nat) (g : Account → Account) (s : State) :
    (updateAccount i g s).controlPort = s.controlPort := by rw [updateAccount_rest]
@[simp] theorem updateAccount_jobUnit (i : Nat) (g : Account → Account) (s : State) :
    (updateAccount i g s).jobUnit = s.jobUnit := by rw [updateAccount_rest]
@[simp] theorem updateAccount_sheetLink (i : Nat) (g : Account → Account) (s : State) :
    (updateAccount i g s).sheetLink = s.sheetLink := by rw [updateAccount_rest]
@[simp] theorem updateAccount_stationUnit (i : Nat) (g : Account → Account) (s : State) :
    (updateAccount i g s).stationUnit = s.stationUnit := by rw [updateAccount_rest]
@[simp] theorem updateAccount_captureUnit (i : Nat) (g : Account → Account) (s : State) :
    (updateAccount i g s).captureUnit = s.captureUnit := by rw [updateAccount_rest]
@[simp] theorem updateAccount_holdUnit (i : Nat) (g : Account → Account) (s : State) :
    (updateAccount i g s).holdUnit = s.holdUnit := by rw [updateAccount_rest]
@[simp] theorem updateAccount_randomSource (i : Nat) (g : Account → Account) (s : State) :
    (updateAccount i g s).randomSource = s.randomSource := by rw [updateAccount_rest]
@[simp] theorem updateAccount_noticeUnit (i : Nat) (g : Account → Account) (s : State) :
    (updateAccount i g s).noticeUnit = s.noticeUnit := by rw [updateAccount_rest]
@[simp] theorem updateAccount_imageMemory (i : Nat) (g : Account → Account) (s : State) :
    (updateAccount i g s).imageMemory = s.imageMemory := by rw [updateAccount_rest]
@[simp] theorem updateAccount_lines (i : Nat) (g : Account → Account) (s : State) :
    (updateAccount i g s).lines = s.lines := by rw [updateAccount_rest]
@[simp] theorem updateAccount_freeCount (i : Nat) (g : Account → Account) (s : State) :
    (updateAccount i g s).freeCount = s.freeCount := by rw [updateAccount_rest]
@[simp] theorem updateAccount_pending (i : Nat) (g : Account → Account) (s : State) :
    (updateAccount i g s).pending = s.pending := by rw [updateAccount_rest]

end Sys2Proof.Machine
end

