-- ==== Sys2Proof/Laws/Effects.lean ====
section
/-! SUPPORT. What each shared operation does to the records it touches: notices, stop requests, stations, bands,
the hold list, accounts. -/
namespace Sys2Proof.Machine

/-! ### Notices (R192 to R199) -/

theorem getGroup_set (p : PerGroup) (g g' : NoticeGroup) (w : BitVec 32) :
    (p.set g w).get g' = if g' = g then w else p.get g' := by
  cases g <;> cases g' <;> rfl

theorem notice_eq (m n : Notice) (hg : m.group = n.group) (hb : m.bit = n.bit) : m = n := by
  cases m <;> cases n <;> first | rfl | exact absurd hg (by decide) | exact absurd hb (by decide)

theorem bit_lt (n : Notice) : n.bit < 32 := by cases n <;> decide

/-- A notice set with one put in. -/
theorem has_insert (p : PerGroup) (n m : Notice) : (p.insert n).has m = (p.has m || m == n) := by
  unfold PerGroup.insert PerGroup.has
  rw [getGroup_set]
  by_cases hg : m.group = n.group
  · rw [if_pos hg, BitVec.getLsbD_or, BitVec.getLsbD_twoPow, hg]
    by_cases hb : m.bit = n.bit
    · have := notice_eq m n hg hb
      subst this
      simp [bit_lt]
    · have hne : m ≠ n := fun h => hb (by rw [h])
      simp [hne, Ne.symm hb]
  · have hne : m ≠ n := fun h => hg (by rw [h])
    rw [if_neg hg]
    simp [hne]

@[simp] theorem pending_withSets (u : NoticeUnit) (p e : PerGroup) : (u.withSets p e).pending = p := by
  unfold NoticeUnit.withSets; simp only; split <;> rfl
@[simp] theorem enabled_withSets (u : NoticeUnit) (p e : PerGroup) : (u.withSets p e).enabled = e := by
  unfold NoticeUnit.withSets; simp only; split <;> rfl
@[simp] theorem fault_withSets (u : NoticeUnit) (p e : PerGroup) : (u.withSets p e).fault = u.fault := by
  unfold NoticeUnit.withSets; simp only; split <;> rfl
@[simp] theorem more_withSets (u : NoticeUnit) (p e : PerGroup) : (u.withSets p e).more = u.more := by
  unfold NoticeUnit.withSets; simp only; split <;> rfl

/-- A notice raised is raised, and nothing else of the notice unit changes. -/
theorem raised_raise (n : Notice) (s : State) : raised [n] s (raise n s) :=
  ⟨fun m => by cases h : m == n <;> simp_all [raise, has_insert], by simp [raise], by simp [raise], by simp [raise]⟩

theorem raised_refl (s t : State) (h : t.noticeUnit = s.noticeUnit) : raised [] s t :=
  ⟨fun m => by simp [h], by rw [h], by rw [h], by rw [h]⟩

theorem raised_trans {l l' : List Notice} {s t u : State} (h : raised l s t) (h' : raised l' t u) :
    raised (l ++ l') s u := by
  obtain ⟨first, enabled, fault, more⟩ := h
  obtain ⟨second, enabled', fault', more'⟩ := h'
  exact ⟨fun m => by simp [second m, first m, Bool.or_assoc], enabled'.trans enabled, fault'.trans fault, more'.trans more⟩

/-- Which notices have been raised is all that counts, not their order. -/
theorem raised_congr {l l' : List Notice} {s t : State} (h : raised l s t) (hl : ∀ n, l.contains n = l'.contains n) :
    raised l' s t := ⟨fun m => by rw [h.1, hl], h.2⟩

theorem raised_raiseIf (c : Bool) (n : Notice) (s : State) : raised (if c then [n] else []) s (raiseIf c n s) := by
  unfold raiseIf
  split
  · exact raised_raise n s
  · exact raised_refl s s rfl

/-! ### Jobs and stop requests (R44, R45) -/

theorem find_putJob (k k' : Nat) (j : Job) (s : State) :
    Table.find (putJob k j s).jobUnit.jobs k' = if k' = k then some j else Table.find s.jobUnit.jobs k' :=
  Table.find_put ..

theorem find_map {α : Type} (f : α → α) (g : Nat × α → Nat × α) (hg : ∀ e, g e = (e.1, f e.2)) (t : Table α) (k : Nat) :
    Table.find (t.map g) k = (Table.find t k).map f := by
  induction t with
  | nil => rfl
  | cons e rest ih =>
    simp only [List.map_cons, hg, Table.find]
    split
    · rfl
    · exact ih

/-- What a stop request makes of a job it reaches. -/
def stoppedFor (p : Job → Bool) (why : StopReason) (j : Job) : Job :=
  if j.running && p j then { j with state := .stopped, stopReason := some why } else j

/-- A stop request makes every READY or ACTIVE job that passes its test STOPPED, and leaves every other job. -/
theorem find_stopJobs (p : Job → Bool) (why : StopReason) (s : State) (k : Nat) :
    Table.find (stopJobs p why s).jobUnit.jobs k = (Table.find s.jobUnit.jobs k).map (stoppedFor p why) := by
  have h : (stopJobs p why s).jobUnit.jobs = s.jobUnit.jobs.map fun e =>
      if e.2.running && p e.2 then (e.1, { e.2 with state := .stopped, stopReason := some why }) else e := by
    unfold stopJobs raiseIf
    simp only
    split <;> rfl
  rw [h]
  refine find_map _ _ (fun e => ?_) _ _
  unfold stoppedFor
  split <;> rfl

@[simp] theorem lastTag_stopJobs (p : Job → Bool) (why : StopReason) (s : State) :
    (stopJobs p why s).jobUnit.lastTag = s.jobUnit.lastTag := by
  unfold stopJobs raiseIf; simp only; split <;> rfl

@[simp] theorem stopRequests_stopJobs (p : Job → Bool) (why : StopReason) (s : State) :
    (stopJobs p why s).jobUnit.stopRequests = s.jobUnit.stopRequests := by
  unfold stopJobs raiseIf; simp only; split <;> rfl

/-- A stop request raises JOB_STOPPED exactly when it stops a job. -/
theorem raised_stopJobs (p : Job → Bool) (why : StopReason) (s : State) :
    raised (if s.jobUnit.jobs.any fun e => e.2.running && p e.2 then [.jobStopped] else []) s (stopJobs p why s) :=
  raised_raiseIf _ .jobStopped { s with jobUnit := _ }

/-- The loss of a station is that of R45. -/
theorem jobsLose_stationLost (st : Station) (s : State) : jobsLose st s (stationLost st s) := by
  refine ⟨fun k => ?_, lastTag_stopJobs _ _ s, stopRequests_stopJobs _ _ s⟩
  show Table.find (stopJobs _ _ s).jobUnit.jobs k = _
  rw [find_stopJobs]
  congr 1
  funext j
  unfold stoppedFor Job.running
  split <;> rename_i h <;> split <;> rename_i h' <;> first | rfl | (simp at h h'; first | exact absurd h.2 (h' h.1) | exact absurd h' (by simpa using h))

/-! ### Accounts -/

theorem updated_eq (a b : Account) : updated a b = afterEvent a b := by
  unfold updated afterEvent; split <;> simp_all

/-- What the walk makes of a change to an account is the marks of R207 and R208. -/
theorem touchAccount_eq (w : Walk) (i : Nat) : w.touchAccount i = w.accountChanged i := by
  obtain ⟨position, writing, stale, dirty⟩ := w
  cases position with
  | groups => simp [Walk.touchAccount, Walk.accountChanged]
  | account p =>
    rcases Nat.lt_trichotomy i p with h | h | h
    · simp [Walk.touchAccount, Walk.accountChanged, h, Nat.ne_of_gt h]
    · subst h
      cases writing <;> simp [Walk.touchAccount, Walk.accountChanged]
    · simp [Walk.touchAccount, Walk.accountChanged, Nat.lt_asymm h, Nat.ne_of_gt h, Nat.ne_of_lt h]

/-- What the walk makes of a change to the group policy table is the marks of R207 and R208. -/
theorem touchGroups_eq (w : Walk) : w.touchGroups = w.groupsChanged := by
  obtain ⟨position, writing, stale, dirty⟩ := w
  cases position <;> cases writing <;> simp [Walk.touchGroups, Walk.groupsChanged]

/-- The entry after an update agrees with the one before it, for the image, as the update's own value does. -/
theorem sameForImage_afterUpdate (i : Nat) (f : Account → Account) (s : State) :
    sameForImage (account s i) (account (updateAccount i f s) i) = sameForImage (account s i) (f (account s i)) := by
  rw [account_updateAccount_same]; unfold updated; split <;> rfl

/-- An update of an account is an event of that account. -/
theorem onlyAccount_updateAccount (i : Nat) (f : Account → Account) (s : State) :
    onlyAccount i s (updateAccount i f s) := by
  refine ⟨fun j hj => by rw [account_updateAccount, if_neg hj], ?_, ?_, ?_⟩
  · simp only [updateAccount]; split <;> rfl
  · simp only [updateAccount]; split <;> rfl
  · rw [sameForImage_afterUpdate]
    simp only [updateAccount]
    split <;> rename_i h
    · rfl
    · simp only [touchAccount, touchAccount_eq]; rfl

/-- The entry after an update. -/
theorem account_afterUpdate (i : Nat) (f : Account → Account) (s : State) :
    account (updateAccount i f s) i = afterEvent (account s i) (f (account s i)) := by
  rw [account_updateAccount_same, updated_eq]

/-! ### Stations (R85, R92) -/

/-- A station that enters a state has that state, and no other field of any station changes. -/
theorem station_enterState (st st' : Station) (new : StationState) (s : State) :
    station (enterState st new s) st' = if st' = st then { station s st with state := new } else station s st' := by
  unfold enterState
  simp only
  split
  · rename_i h
    split
    · rename_i h'; subst h'; subst h; rfl
    · rfl
  · have hr : ∀ (n : Notice) (u : State), station (raise n u) st' = station u st' := fun _ _ => rfl
    have hl : ∀ u : State, station (stationLost st u) st' = station u st' := by
      intro u; unfold stationLost stopJobs raiseIf; simp only; split <;> rfl
    rw [hr]
    split <;> first | rw [hl, station_putStation] | rw [station_putStation]

/-- A station with nothing in flight and nothing queued starts an exchange at once, if it may start (R92). -/
theorem station_enqueue_idle (st : Station) (kind : ExchangeKind) (s : State) (h1 : (station s st).inFlight = none)
    (h2 : (station s st).queue = []) (h3 : startable s.randomSource.health kind = true) :
    station (enqueue st kind s) st = { station s st with inFlight := some ⟨(station s st).begin kind, 1⟩ } := by
  generalize hx : station s st = x at h1 h2
  unfold enqueue
  simp only [hx, h2, List.contains_nil, Bool.false_eq_true, if_false, List.nil_append]
  unfold startNext
  simp only [station_putStation_same, h1, putStation_randomSource, List.find?_cons, h3, List.erase_cons_head]
  split
  · show station (putStation st _ _) st = _
    rw [station_putStation_same]; cases kind <;> simp [StationRecord.begin]
  · rw [station_putStation_same]; cases kind <;> simp [StationRecord.begin]

/-- The next exchange of a legal queue starts as R92 says, and a PROOF that starts asks for its nonce. -/
theorem startNext_spec (st : Station) (s : State) (h : (station s st).queue ∈ legalQueues) :
    station (startNext st s) st = nextStarted s.randomSource.health (station s st) ∧
    (startNext st s).randomSource =
      nonceAsked st (station s st) (nextStarted s.randomSource.health (station s st)) s := by
  generalize hx : station s st = x at h
  generalize hh : s.randomSource.health = health
  obtain ⟨state, reason, presence, condition, cartridge, colour, remaining, written, unwritten, toggle, allowance, used,
    low, errors, inFlight, queue⟩ := x
  simp only [legalQueues, List.mem_cons, List.not_mem_nil, or_false] at h
  unfold startNext
  simp only [hx, hh]
  cases inFlight with
  | some f => exact ⟨by simp [nextStarted, hx], by simp [nonceAsked, nextStarted]⟩
  | none =>
    unfold station at hx
    have mayWrite : ∀ h', startable h' .yieldWrite = true := by intro h'; cases h' <;> rfl
    have mayProve : startable .healthy .proof = true := rfl
    have mayNotProve : startable .unhealthy .proof = false := rfl
    rcases h with h | h | h | h | h <;> subst h <;> cases health <;>
      simp [mayWrite, mayProve, mayNotProve, nextStarted, nonceAsked, StationRecord.begin, station, putStation, hx,
        hh]

/-- A PROOF or a write asked for is merged, queued, or started as R91 and R92 say. -/
theorem enqueue_spec (st : Station) (kind : ExchangeKind) (s : State) (hk : kind ≠ .identRead)
    (h : (station s st).queue ∈ legalQueues) :
    station (enqueue st kind s) st = asked s.randomSource.health kind (station s st) ∧
    (enqueue st kind s).randomSource =
      nonceAsked st (station s st) (asked s.randomSource.health kind (station s st)) s := by
  by_cases hm : kind ∈ (station s st).queue
  · have hc : (station s st).queue.contains kind = true := by simpa using hm
    refine ⟨by simp [enqueue, asked, hm], ?_⟩
    have : ∀ x : StationRecord, nonceAsked st x x s = s.randomSource := by
      intro x; unfold nonceAsked; split
      · rename_i hn; rw [hn.1] at hn; cases hn.2
      · rfl
    simp [enqueue, asked, hm, this]
  · have hq : ((station s st).queue ++ [kind]) ∈ legalQueues := by
      simp only [legalQueues, List.mem_cons, List.not_mem_nil, or_false] at h ⊢
      rcases h with h | h | h | h | h <;> rw [h] at hm ⊢ <;> cases kind <;> simp_all
    have := startNext_spec st (putStation st { station s st with queue := (station s st).queue ++ [kind] } s)
      (by rw [station_putStation_same]; exact hq)
    rw [station_putStation_same] at this
    have he : enqueue st kind s =
        startNext st (putStation st { station s st with queue := (station s st).queue ++ [kind] } s) := by
      simp [enqueue, hm]
    have ha : asked s.randomSource.health kind (station s st) =
        nextStarted s.randomSource.health { station s st with queue := (station s st).queue ++ [kind] } := if_neg hm
    rw [he, ha]
    exact this

theorem station_startNext_other {st st' : Station} (h : st' ≠ st) (s : State) :
    station (startNext st s) st' = station s st' := by
  unfold startNext
  simp only
  split
  · split
    · show station (putStation st _ s) st' = _
      rw [station_putStation, if_neg h]
    · rw [station_putStation, if_neg h]
  · rfl

/-- A request for an exchange leaves every other station. -/
theorem station_enqueue_other {st st' : Station} (h : st' ≠ st) (kind : ExchangeKind) (s : State) :
    station (enqueue st kind s) st' = station s st' := by
  unfold enqueue
  simp only
  split
  · rfl
  · rw [station_startNext_other h, station_putStation, if_neg h]

/-! ### Extents and descriptors (R144, R146, R151) -/

theorem mem_freeRun {first count e : Nat} {owned : List Nat} :
    e ∈ freeRun first count owned ↔ e ∈ owned ∧ (e < first ∨ first + count ≤ e) := by
  simp only [freeRun, List.mem_filter, Bool.not_eq_true', Bool.and_eq_false_iff, decide_eq_false_iff_not]
  constructor <;> (rintro ⟨h, h'⟩; exact ⟨h, by omega⟩)

theorem le_of_mem_risingList {low e : Nat} {l : List Nat} (h : risingList low l = true) (he : e ∈ l) : low ≤ e := by
  induction l generalizing low with
  | nil => cases he
  | cons x rest ih =>
    simp only [risingList, Bool.and_eq_true, decide_eq_true_eq] at h
    cases he with
    | head => exact h.1
    | tail _ h' => exact Nat.le_trans (by omega) (ih h.2 h')

theorem risingList_mono {low low' : Nat} (h : low' ≤ low) {l : List Nat} (hl : risingList low l = true) :
    risingList low' l = true := by
  cases l with
  | nil => rfl
  | cons x rest =>
    simp only [risingList, Bool.and_eq_true, decide_eq_true_eq] at hl ⊢
    exact ⟨by omega, hl.2⟩

/-- A run freed leaves the owned extents rising. -/
theorem risingList_filter (p : Nat → Bool) {low : Nat} {l : List Nat} (h : risingList low l = true) :
    risingList low (l.filter p) = true := by
  induction l generalizing low with
  | nil => rfl
  | cons x rest ih =>
    simp only [risingList, Bool.and_eq_true, decide_eq_true_eq] at h
    simp only [List.filter_cons]
    split
    · simp only [risingList, Bool.and_eq_true, decide_eq_true_eq]; exact ⟨h.1, ih h.2⟩
    · exact risingList_mono (by omega) (ih h.2)

theorem risingList_range' (first count low : Nat) (h : low ≤ first) (rest : List Nat)
    (hr : risingList (first + count) rest = true) : risingList low (List.range' first count ++ rest) = true := by
  induction count generalizing first low with
  | zero => exact risingList_mono (by omega) hr
  | succ n ih =>
    simp only [List.range'_succ, List.cons_append, risingList, Bool.and_eq_true, decide_eq_true_eq]
    exact ⟨h, ih (first + 1) (first + 1) (Nat.le_refl _) (by rw [Nat.add_right_comm]; exact hr)⟩

/-- A free run taken keeps the owned extents rising. -/
theorem risingList_ownRun {first count low : Nat} {owned : List Nat} (h : risingList low owned = true) (hl : low ≤ first)
    (hf : ∀ e ∈ owned, e < first ∨ first + count ≤ e) : risingList low (ownRun first count owned) = true := by
  unfold ownRun
  induction owned generalizing low with
  | nil => exact risingList_range' first count low hl [] rfl
  | cons x rest ih =>
    simp only [risingList, Bool.and_eq_true, decide_eq_true_eq] at h
    by_cases hx : x < first
    · simp only [List.takeWhile_cons, List.dropWhile_cons, hx, decide_true, if_true, List.cons_append, risingList,
        Bool.and_eq_true, decide_eq_true_eq]
      exact ⟨h.1, ih h.2 (by omega) (fun e he => hf e (List.mem_cons_of_mem _ he))⟩
    · simp only [List.takeWhile_cons, List.dropWhile_cons, hx, decide_false, Bool.false_eq_true, if_false,
        List.nil_append]
      refine risingList_range' first count low hl _ ?_
      simp only [risingList, Bool.and_eq_true, decide_eq_true_eq]
      have := hf x (List.mem_cons_self ..)
      exact ⟨by omega, h.2⟩

theorem mem_ownRun {first count e : Nat} {owned : List Nat} :
    e ∈ ownRun first count owned ↔ e ∈ owned ∨ (first ≤ e ∧ e < first + count) := by
  have h : e ∈ owned ↔ e ∈ owned.takeWhile (· < first) ∨ e ∈ owned.dropWhile (· < first) := by
    rw [← List.mem_append, List.takeWhile_append_dropWhile]
  rw [h]
  simp only [ownRun, List.mem_append, List.mem_range'_1]
  exact or_right_comm

/-- The run found is the first fit, looked for from an extent on (R146 step 3). -/
theorem firstFit_spec {need start first : Nat} {owned : List Nat} (hr : risingList start owned = true)
    (h : firstFit need start owned = some first) :
    start ≤ first ∧ first + need ≤ 16384 ∧ (∀ e ∈ owned, e < first ∨ first + need ≤ e) ∧
    ∀ c, start ≤ c → c < first → ∃ e ∈ owned, c ≤ e ∧ e < c + need := by
  induction owned generalizing start with
  | nil =>
    simp only [firstFit] at h
    have hcount : Config.extentCount = 16384 := rfl
    split at h
    · rename_i hc
      cases h
      exact ⟨Nat.le_refl _, by omega, by simp, fun c h1 h2 => by omega⟩
    · cases h
  | cons x rest ih =>
    simp only [risingList, Bool.and_eq_true, decide_eq_true_eq] at hr
    simp only [firstFit] at h
    have hcount : Config.extentCount = 16384 := rfl
    split at h
    · rename_i hx
      cases h
      refine ⟨Nat.le_refl _, by omega, fun e he => ?_, fun c h1 h2 => by omega⟩
      cases he with
      | head => right; omega
      | tail _ h' => have := le_of_mem_risingList hr.2 h'; omega
    · rename_i hx
      obtain ⟨h1, h2, h3, h4⟩ := ih hr.2 h
      refine ⟨by omega, h2, fun e he => ?_, fun c hc hc' => ?_⟩
      · cases he with
        | head => left; omega
        | tail _ h' => exact h3 e h'
      · by_cases hcx : c ≤ x
        · exact ⟨x, List.mem_cons_self .., hcx, by omega⟩
        · obtain ⟨e, he, h5⟩ := h4 c (by omega) hc'
          exact ⟨e, List.mem_cons_of_mem _ he, h5⟩

/-- Where no run is found, every run of that length in image memory holds an owned extent. -/
theorem firstFit_none {need start : Nat} {owned : List Nat} (hr : risingList start owned = true)
    (h : firstFit need start owned = none) :
    ∀ c, start ≤ c → c + need ≤ 16384 → ∃ e ∈ owned, c ≤ e ∧ e < c + need := by
  induction owned generalizing start with
  | nil =>
    simp only [firstFit] at h
    have hcount : Config.extentCount = 16384 := rfl
    intro c h1 h2
    rw [if_pos (by omega)] at h
    cases h
  | cons x rest ih =>
    simp only [risingList, Bool.and_eq_true, decide_eq_true_eq] at hr
    simp only [firstFit] at h
    have hcount : Config.extentCount = 16384 := rfl
    split at h
    · cases h
    · rename_i hx
      intro c hc hc'
      by_cases hcx : c ≤ x
      · exact ⟨x, List.mem_cons_self .., hcx, by omega⟩
      · obtain ⟨e, he, h5⟩ := ih hr.2 h c (by omega) hc'
        exact ⟨e, List.mem_cons_of_mem _ he, h5⟩

/-- A first fit is the run that is found. -/
theorem firstFit_of {need first : Nat} {owned : List Nat} (hr : risingList 0 owned = true)
    (h : isFirstFit first need owned) : firstFit need 0 owned = some first := by
  cases hf : firstFit need 0 owned with
  | none =>
    obtain ⟨e, he, h1, h2⟩ := firstFit_none hr hf first (Nat.zero_le _) h.1
    rcases h.2.1 e he with h3 | h3 <;> omega
  | some found =>
    obtain ⟨_, h2, h3, h4⟩ := firstFit_spec hr hf
    congr 1
    by_cases hlt : found < first
    · obtain ⟨e, he, h5, h6⟩ := h.2.2 found hlt
      rcases h3 e he with h7 | h7 <;> omega
    · by_cases hgt : first < found
      · obtain ⟨e, he, h5, h6⟩ := h4 first (Nat.zero_le _) hgt
        rcases h.2.1 e he with h7 | h7 <;> omega
      · omega

/-! ### Key slots, descriptors and erasure (R144, R159, R172) -/

theorem keySlot_putSlot (n m : Nat) (x : KeySlot) (s : State) :
    keySlot (putSlot n x s) m = if m = n then x else keySlot s m := Table.read_write ..

@[simp] theorem keySlot_putSlot_same (n : Nat) (x : KeySlot) (s : State) : keySlot (putSlot n x s) n = x := by
  simp [keySlot_putSlot]

@[simp] theorem keySlot_updateAccount (i n : Nat) (f : Account → Account) (s : State) :
    keySlot (updateAccount i f s) n = keySlot s n := by simp [keySlot]

@[simp] theorem keySlot_dropHeldScan (o : Option Nat) (n : Nat) (s : State) :
    keySlot (dropHeldScan o s) n = keySlot s n := by
  unfold dropHeldScan; split <;> simp

@[simp] theorem holdUnit_dropHeldScan (o : Option Nat) (s : State) : (dropHeldScan o s).holdUnit = s.holdUnit := by
  unfold dropHeldScan; split <;> simp

@[simp] theorem captureUnit_dropHeldScan (o : Option Nat) (s : State) :
    (dropHeldScan o s).captureUnit = s.captureUnit := by
  unfold dropHeldScan; split <;> simp

/-- One descriptor returned to the pool. -/
theorem find_freeBand (u : CaptureUnit) (n b : Nat) :
    Table.find (freeBand u n).descriptors b = if b = n then none else Table.find u.descriptors b := by
  unfold freeBand
  split
  · rename_i h
    split
    · rename_i hb; rw [hb]; exact h
    · rfl
  · exact Table.find_drop ..

/-- Descriptors returned to the pool are free, and no other descriptor changes. -/
theorem find_foldl_freeBand (ns : List Nat) (u : CaptureUnit) (b : Nat) :
    Table.find (ns.foldl freeBand u).descriptors b = if b ∈ ns then none else Table.find u.descriptors b := by
  induction ns generalizing u with
  | nil => simp
  | cons n rest ih =>
    simp only [List.foldl_cons, ih, find_freeBand, List.mem_cons]
    by_cases h1 : b ∈ rest <;> by_cases h2 : b = n <;> simp [h1, h2]

theorem descriptor_freeBands (ns : List Nat) (s : State) (b : Nat) :
    descriptor (freeBands ns s) b = if b ∈ ns then none else descriptor s b := find_foldl_freeBand ..

/-- The extents that stay owned when descriptors are returned: those in no run of theirs. -/
theorem mem_foldl_freeBand (ns : List Nat) (u : CaptureUnit) (e : Nat) :
    e ∈ (ns.foldl freeBand u).extents ↔ e ∈ u.extents ∧
      ∀ b ∈ ns, ∀ d, Table.find u.descriptors b = some d → e < d.firstExtent ∨ d.firstExtent + d.extentCount ≤ e := by
  induction ns generalizing u with
  | nil => simp
  | cons n rest ih =>
    simp only [List.foldl_cons, ih, find_freeBand, List.mem_cons]
    have hx : e ∈ (freeBand u n).extents ↔ e ∈ u.extents ∧
        ∀ d, Table.find u.descriptors n = some d → e < d.firstExtent ∨ d.firstExtent + d.extentCount ≤ e := by
      unfold freeBand
      split
      · rename_i h; simp [h]
      · rename_i d h
        simp only [mem_freeRun, h, Option.some.injEq]
        constructor
        · rintro ⟨h1, h2⟩; exact ⟨h1, fun d' hd => by subst hd; exact h2⟩
        · rintro ⟨h1, h2⟩; exact ⟨h1, h2 d rfl⟩
    rw [hx]
    constructor
    · rintro ⟨⟨h1, h2⟩, h3⟩
      refine ⟨h1, fun b hb d hd => ?_⟩
      by_cases hbn : b = n
      · subst hbn; exact h2 d hd
      · exact h3 b (hb.resolve_left hbn) d (by rw [if_neg hbn]; exact hd)
    · rintro ⟨h1, h2⟩
      refine ⟨⟨h1, h2 n (.inl rfl)⟩, fun b hb d hd => ?_⟩
      split at hd
      · cases hd
      · exact h2 b (.inr hb) d hd

theorem mem_extents_freeBands (ns : List Nat) (s : State) (e : Nat) :
    e ∈ (freeBands ns s).captureUnit.extents ↔ e ∈ s.captureUnit.extents ∧
      ∀ b ∈ ns, ∀ d, descriptor s b = some d → e < d.firstExtent ∨ d.firstExtent + d.extentCount ≤ e :=
  mem_foldl_freeBand ..

/-- Returning descriptors changes the descriptors and the extents only. -/
theorem foldl_freeBand_rest (ns : List Nat) (u : CaptureUnit) :
    ns.foldl freeBand u = { u with
      descriptors := (ns.foldl freeBand u).descriptors, extents := (ns.foldl freeBand u).extents } := by
  induction ns generalizing u with
  | nil => rfl
  | cons n rest ih =>
    rw [List.foldl_cons, ih]
    unfold freeBand
    split <;> rfl

/-- A slot erased is blank, and no other slot changes. -/
theorem keySlot_blankSlot (n m : Nat) (s : State) :
    keySlot (blankSlot n s) m = if m = n then KeySlot.blank else keySlot s m := by
  unfold blankSlot
  simp only [keySlot_dropHeldScan, keySlot_putSlot]
  rfl

theorem captureUnit_blankSlot (n : Nat) (s : State) :
    (blankSlot n s).captureUnit = (keySlot s n).bands.foldl freeBand s.captureUnit := by
  unfold blankSlot
  simp only [captureUnit_dropHeldScan]
  rfl

/-- The owner of a slot erased holds one scan fewer. -/
theorem account_blankSlot (n i : Nat) (s : State) :
    account (blankSlot n s) i = if (keySlot s n).owner = some i then
      updated (account s i) { account s i with heldScans := (account s i).heldScans - 1 } else account s i := by
  unfold blankSlot dropHeldScan
  simp only
  split
  · rename_i h; rw [h]; simp; rfl
  · rename_i o h
    rw [account_updateAccount, h]
    by_cases hi : i = o
    · subst hi; simp; rfl
    · rw [if_neg hi, if_neg (by simp [Ne.symm hi])]; rfl

/-- A count of scans is no field of R4. -/
theorem updated_heldScans (a : Account) (n : Nat) : updated a { a with heldScans := n } = { a with heldScans := n } := by
  simp [updated, sameForImage]

/-- Where a slot goes on the hold list: after every slot that expires no later, before the first that does. -/
theorem placeHeld_spec (f : Nat → Nat) (n expiry : Nat) (l : List Nat) :
    ∃ before after, l = before ++ after ∧ placeHeld f n expiry l = before ++ [n] ++ after ∧
      (∀ m ∈ before, f m ≤ expiry) ∧ ∀ m, after.head? = some m → expiry < f m := by
  induction l with
  | nil => exact ⟨[], [], rfl, rfl, by simp, by simp⟩
  | cons x rest ih =>
    simp only [placeHeld]
    split
    · rename_i h
      obtain ⟨b, a, h1, h2, h3, h4⟩ := ih
      refine ⟨x :: b, a, by rw [h1]; rfl, by rw [h2]; rfl, fun m hm => ?_, h4⟩
      cases hm with
      | head => exact h
      | tail _ h' => exact h3 m h'
    · rename_i h
      exact ⟨[], x :: rest, rfl, rfl, by simp, fun m hm => by simp at hm; subst hm; omega⟩

/-! ### The cipher (R147, R164) -/

theorem length_keyStream (keys nonce : List Byte) (blocks c : Nat) :
    (Cipher.keyStream keys nonce blocks c).length = 16 * blocks := by
  induction blocks generalizing c with
  | zero => rfl
  | succ n ih =>
    have h : ∀ (w : Nat) (v : BitVec w) (k : Nat), (Cipher.beBytes v k).length = k := by
      intro w v k; induction k with
      | zero => rfl
      | succ k ihk => simp [Cipher.beBytes, ihk]
    simp only [Cipher.keyStream, List.length_append, h, ih]; omega

/-- Ciphertext has the length of the plaintext. -/
@[simp] theorem length_bandCrypt (key : BitVec 256) (slot : Nat) (d : Descriptor) (bytes : List Byte) :
    (bandCrypt key slot d bytes).length = bytes.length := by
  simp only [bandCrypt, Cipher.crypt, Cipher.xorBytes, List.length_zipWith, length_keyStream]; omega

end Sys2Proof.Machine
end

