-- ==== Sys2Proof/Laws/Frames.lean ====
section
/-! SUPPORT. Which parts of the state each shared operation may change: one lemma for each, and the rules that
compose them; and that those which end a job leave the part up or down. -/
namespace Sys2Proof.Machine

/-! ### The rules -/

theorem parts_refl (l : List Part) (s : State) : onlyParts l s s := fun p _ => by cases p <;> rfl

theorem parts_mono {l l' : List Part} {s t : State} (h : onlyParts l s t) (hl : ∀ p, p ∈ l → p ∈ l') :
    onlyParts l' s t := fun p hp => h p fun h' => hp (hl p h')

theorem parts_trans {l : List Part} {s t u : State} (h : onlyParts l s t) (h' : onlyParts l t u) : onlyParts l s u := by
  intro p hp
  have a := h p hp
  have b := h' p hp
  cases p <;> simp only [Part.same] at a b ⊢ <;> rw [b, a]

theorem parts_comp {l l1 l2 : List Part} {s t u : State} (h : onlyParts l1 s t) (h' : onlyParts l2 t u)
    (h1 : ∀ p, p ∈ l1 → p ∈ l) (h2 : ∀ p, p ∈ l2 → p ∈ l) : onlyParts l s u :=
  parts_trans (parts_mono h h1) (parts_mono h' h2)

theorem parts_ite {l : List Part} {s t u : State} {c : Prop} [Decidable c] (h : c → onlyParts l s t)
    (h' : ¬c → onlyParts l s u) : onlyParts l s (if c then t else u) := by
  split
  · exact h ‹_›
  · exact h' ‹_›

theorem parts_foldl {α : Type} {l : List Part} {f : State → α → State} (h : ∀ s a, onlyParts l s (f s a)) (s : State)
    (as : List α) : onlyParts l s (as.foldl f s) := by
  induction as generalizing s with
  | nil => exact parts_refl l s
  | cons a rest ih => exact parts_trans (h s a) (ih (f s a))

/-! ### The notice unit -/

theorem parts_raise (n : Notice) (s : State) : onlyParts [.notice] s (raise n s) := by
  intro p hp; cases p <;> simp at hp <;> rfl

theorem parts_raiseIf (c : Bool) (n : Notice) (s : State) : onlyParts [.notice] s (raiseIf c n s) :=
  parts_ite (fun _ => parts_raise n s) (fun _ => parts_refl _ s)

theorem parts_captureFault (f : FaultRecord) (s : State) : onlyParts [.notice] s (captureFault f s) := by
  intro p hp
  unfold captureFault
  cases p <;> simp at hp <;> (simp only; split <;> rfl)

/-! ### The command cycle -/

theorem parts_place (x : Response × List Byte) (s : State) : onlyParts [.control] s (place x s) := by
  intro p hp; cases p <;> simp at hp <;> rfl

/-! ### Records -/

theorem parts_putAccount (i : Nat) (a : Account) (s : State) : onlyParts [.account] s (putAccount i a s) := by
  intro p hp; cases p <;> simp at hp <;> rfl

theorem parts_putJob (k : Nat) (j : Job) (s : State) : onlyParts [.job] s (putJob k j s) := by
  intro p hp; cases p <;> simp at hp <;> rfl

theorem parts_putStation (st : Station) (x : StationRecord) (s : State) : onlyParts [.station] s (putStation st x s) := by
  intro p hp; cases p <;> simp at hp <;> rfl

theorem parts_putSlot (n : Nat) (x : KeySlot) (s : State) : onlyParts [.hold] s (putSlot n x s) := by
  intro p hp; cases p <;> simp at hp <;> rfl

theorem parts_updateAccount (i : Nat) (f : Account → Account) (s : State) :
    onlyParts [.account, .retention] s (updateAccount i f s) := by
  intro p hp; cases p <;> simp at hp <;> simp [Part.same]

theorem parts_completeRetirement (i : Nat) (s : State) :
    onlyParts [.account, .retention] s (completeRetirement i s) :=
  parts_ite (fun _ => parts_updateAccount i _ s) (fun _ => parts_refl _ s)

/-! ### Stop requests -/

theorem parts_stopJobs (q : Job → Bool) (why : StopReason) (s : State) :
    onlyParts [.job, .notice] s (stopJobs q why s) := by
  refine parts_comp (l1 := [.job]) (l2 := [.notice]) ?_ (parts_raiseIf _ _ _) (by decide) (by decide)
  intro p hp; cases p <;> simp at hp <;> rfl

theorem parts_stopTag (tag : Nat) (why : StopReason) (s : State) : onlyParts [.job, .notice] s (stopTag tag why s) :=
  parts_stopJobs _ _ _

theorem parts_stationLost (st : Station) (s : State) : onlyParts [.job, .notice] s (stationLost st s) :=
  parts_stopJobs _ _ _

theorem parts_issueStops (i : Nat) (why : StopReason) (s : State) : onlyParts [.job] s (issueStops i why s) := by
  intro p hp; cases p <;> simp at hp <;> rfl

/-! ### Stations -/

theorem parts_enterState (st : Station) (new : StationState) (s : State) :
    onlyParts [.station, .job, .notice] s (enterState st new s) := by
  refine parts_ite (fun _ => parts_refl _ s) fun _ => ?_
  refine parts_trans (t := putStation st { station s st with state := new } s)
    (parts_mono (parts_putStation _ _ _) (by decide)) ?_
  refine parts_trans ?_ (parts_mono (parts_raise _ _) (by decide))
  exact parts_ite (fun _ => parts_mono (parts_stationLost _ _) (by decide)) (fun _ => parts_refl _ _)

theorem parts_startNext (st : Station) (s : State) : onlyParts [.station, .random] s (startNext st s) := by
  unfold startNext
  simp only
  split
  · split
    · intro p hp; cases p <;> simp at hp <;> rfl
    · exact parts_mono (parts_putStation _ _ _) (by decide)
  · exact parts_refl _ s

theorem parts_enqueue (st : Station) (kind : ExchangeKind) (s : State) :
    onlyParts [.station, .random] s (enqueue st kind s) :=
  parts_ite (fun _ => parts_refl _ s) fun _ =>
    parts_trans (parts_mono (parts_putStation _ _ _) (by decide)) (parts_startNext _ _)

theorem parts_requestWrite (st : Station) (s : State) : onlyParts [.station, .random] s (requestWrite st s) :=
  parts_ite (fun _ => parts_enqueue _ _ _) (fun _ => parts_refl _ s)

theorem parts_clearExchange (st : Station) (s : State) : onlyParts [.station, .random] s (clearExchange st s) := by
  intro p hp; cases p <;> simp at hp <;> rfl

theorem parts_cancelAll (st : Station) (s : State) : onlyParts [.station, .random] s (cancelAll st s) :=
  parts_trans (parts_clearExchange _ _) (parts_mono (parts_putStation _ _ _) (by decide))

theorem parts_probe (st : Station) (s : State) : onlyParts [.station, .job, .notice, .random] s (probe st s) :=
  parts_comp (parts_enterState _ _ _) (parts_enqueue _ _ _) (by decide) (by decide)

theorem parts_reject (st : Station) (why : RejectReason) (s : State) :
    onlyParts [.station, .job, .notice] s (reject st why s) :=
  parts_comp (parts_putStation _ _ _) (parts_enterState _ _ _) (by decide) (by decide)

theorem parts_failAttempt (st : Station) (s : State) : onlyParts [.station, .job, .notice] s (failAttempt st s) := by
  unfold failAttempt
  simp only
  split
  · exact parts_refl _ s
  · split
    · exact parts_mono (parts_putStation _ _ _) (by decide)
    · have h := fun x => parts_trans (parts_mono (parts_putStation st x s) (by decide))
        (parts_enterState st .unreachable (putStation st x s))
      split
      · exact parts_trans (h _) (parts_mono (parts_raise _ _) (by decide))
      · exact h _

theorem parts_recheck (st : Station) (s : State) : onlyParts [.station, .job, .notice, .random] s (recheck st s) :=
  parts_ite (fun _ => parts_comp (parts_enterState _ _ _) (parts_enqueue _ _ _) (by decide) (by decide))
    (fun _ => parts_refl _ s)

theorem parts_runsOut (st : Station) (s : State) : onlyParts [.station, .job, .notice, .random] s (runsOut st s) := by
  refine parts_ite (fun _ => ?_) (fun _ => parts_refl _ s)
  have h := parts_mono (l' := [.station, .job, .notice, .random]) (parts_enterState st (station s st).proven s) (by decide)
  exact parts_ite (fun _ => parts_trans h (parts_mono (parts_requestWrite _ _) (by decide))) (fun _ => h)

theorem parts_graceSide (st : Station) (s : State) : onlyParts [.station, .job, .notice] s (graceSide st s) := by
  refine parts_ite (fun _ => ?_) (fun _ => parts_refl _ s)
  have h := fun x => parts_mono (l' := [.station, .job, .notice]) (parts_putStation st x s) (by decide)
  exact parts_ite (fun _ => parts_trans (h _) (parts_enterState _ _ _)) (fun _ => h _)

theorem parts_writeBackTest (st : Station) (s : State) : onlyParts [.station, .random] s (writeBackTest st s) :=
  parts_ite (fun _ => parts_requestWrite _ _) (fun _ => parts_refl _ s)

theorem parts_lowYieldTest (st : Station) (rated : Nat) (s : State) :
    onlyParts [.station, .notice] s (lowYieldTest st rated s) :=
  parts_ite (fun _ => parts_comp (parts_putStation _ _ _) (parts_raise _ _) (by decide) (by decide))
    (fun _ => parts_refl _ s)

theorem parts_meterDose (st : Station) (dose : Nat) (s : State) :
    onlyParts [.station, .job, .notice, .random] s (meterDose st dose s) := by
  unfold meterDose
  simp only
  split
  · exact parts_refl _ s
  · refine parts_trans ?_ (parts_mono (parts_writeBackTest _ _) (by decide))
    have h := fun x rated => parts_comp (l := [.station, .job, .notice, .random]) (parts_putStation st x s)
      (parts_lowYieldTest st rated (putStation st x s)) (by decide) (by decide)
    exact parts_ite (fun _ => parts_trans (h _ _) (parts_mono (parts_graceSide _ _) (by decide)))
      (fun _ => parts_ite (fun _ => parts_trans (h _ _) (parts_runsOut _ _)) (fun _ => h _ _))

theorem parts_passDose (st : Station) (dose : BitVec 16) (s : State) :
    onlyParts [.station, .job, .notice, .random] s (passDose st dose s) :=
  parts_ite (fun _ => parts_refl _ s) (fun _ => parts_meterDose _ _ _)

theorem parts_passStation (sides : Nat) (r : SheetReport) (s : State) (st : Station) :
    onlyParts [.station, .job, .notice, .random] s (passStation sides r s st) :=
  parts_ite (fun _ => parts_trans (parts_passDose _ _ _) (parts_passDose _ _ _)) (fun _ => parts_passDose _ _ _)

theorem parts_passDoses (sides : Nat) (r : SheetReport) (s : State) :
    onlyParts [.station, .job, .notice, .random] s (passDoses sides r s) :=
  parts_foldl (parts_passStation sides r) s _

theorem parts_takeSlot (s : State) : onlyParts [.station, .job, .notice, .random] s (takeSlot s) := by
  unfold takeSlot
  simp only
  split
  · intro p hp; cases p <;> simp at hp <;> rfl
  · refine parts_trans ?_ (parts_recheck _ _)
    intro p hp; cases p <;> simp at hp <;> rfl

theorem parts_countSheet (s : State) : onlyParts [.station, .job, .notice, .random] s (countSheet s) := by
  unfold countSheet
  simp only
  split
  · refine parts_trans ?_ (parts_takeSlot _)
    intro p hp; cases p <;> simp at hp <;> rfl
  · intro p hp; cases p <;> simp at hp <;> rfl

theorem parts_senseStation (noted : Bool) (s : State) (st : Station) :
    onlyParts [.station, .job, .notice, .random] s (senseStation noted s st) := by
  unfold senseStation
  simp only
  refine parts_trans ?_ (parts_ite (fun _ => parts_mono (parts_enqueue _ _ _) (by decide)) (fun _ => parts_refl _ _))
  refine parts_trans ?_ (parts_mono (parts_raiseIf _ _ _) (by decide))
  refine parts_trans (parts_mono (parts_putStation _ _ _) (by decide))
    (parts_ite (fun _ => parts_mono (parts_stationLost _ _) (by decide)) (fun _ => parts_refl _ _))

theorem parts_senseStations (noted : Bool) (s : State) :
    onlyParts [.station, .job, .notice, .random] s (senseStations noted s) :=
  parts_foldl (parts_senseStation noted) s _

/-! ### Scan custody -/

theorem parts_freeBands (ns : List Nat) (s : State) : onlyParts [.capture] s (freeBands ns s) := by
  intro p hp; cases p <;> simp at hp <;> rfl

theorem parts_sendStatus (m : List Byte) (s : State) : onlyParts [.capture] s (sendStatus m s) := by
  intro p hp; cases p <;> simp at hp <;> rfl

theorem parts_unbindPort (s : State) : onlyParts [.capture] s (unbindPort s) := by
  intro p hp; cases p <;> simp at hp <;> rfl

theorem parts_stopStreamer (s : State) : onlyParts [.hold] s (stopStreamer s) := by
  intro p hp; cases p <;> simp at hp <;> rfl

theorem parts_returnToHeld (n : Nat) (d : Bool) (s : State) : onlyParts [.hold] s (returnToHeld n d s) :=
  parts_putSlot _ _ _

theorem parts_dropPage (s : State) : onlyParts [.capture, .hold] s (dropPage s) := by
  unfold dropPage
  simp only
  split <;> (intro p hp; cases p <;> simp at hp <;> rfl)

theorem parts_dropHeldScan (owner : Option Nat) (s : State) :
    onlyParts [.account, .retention] s (dropHeldScan owner s) := by
  unfold dropHeldScan
  split
  · exact parts_refl _ s
  · exact parts_updateAccount _ _ s

theorem parts_blankSlot (n : Nat) (s : State) : onlyParts [.account, .retention, .capture, .hold] s (blankSlot n s) :=
  parts_comp (parts_comp (l := [.capture, .hold]) (parts_freeBands _ s) (parts_putSlot n .blank _) (by decide)
    (by decide)) (parts_dropHeldScan _ _) (by decide) (by decide)

theorem parts_eraseCapturing (n : Nat) (s : State) :
    onlyParts [.account, .retention, .capture, .hold] s (eraseCapturing n s) := by
  refine parts_trans (parts_blankSlot n s) ?_
  intro p hp; cases p <;> simp at hp <;> rfl

theorem parts_eraseHeld (n : Nat) (s : State) : onlyParts [.account, .retention, .capture, .hold] s (eraseHeld n s) := by
  refine parts_trans ?_ (parts_blankSlot n _)
  unfold stopStreamer
  split <;> (intro p hp; cases p <;> simp at hp <;> rfl)

theorem parts_endRelease (n : Nat) (s : State) :
    onlyParts [.account, .retention, .capture, .hold, .notice] s (endRelease n s) := by
  refine parts_ite (fun _ => ?_) (fun _ => ?_)
  · exact parts_trans (parts_comp (parts_eraseHeld n s) (parts_raise .releaseEnded _) (by decide) (by decide))
      (parts_mono (parts_raise _ _) (by decide))
  · exact parts_comp (parts_comp (l := [.hold]) (parts_stopStreamer s) (parts_returnToHeld _ _ _) (by decide) (by decide))
      (parts_raise _ _) (by decide) (by decide)

theorem parts_holdScan (n minutes : Nat) (s : State) : onlyParts [.hold, .notice] s (holdScan n minutes s) := by
  refine parts_trans ?_ (parts_mono (parts_raise _ _) (by decide))
  intro p hp; cases p <;> simp at hp <;> rfl

theorem parts_settleSlot (j : Job) (s : State) :
    onlyParts [.account, .retention, .capture, .hold, .notice] s (settleSlot j s).2 := by
  unfold settleSlot
  split
  · exact parts_refl _ s
  · split
    · exact parts_refl _ s
    · simp only
      split
      · exact parts_mono (parts_holdScan _ _ _) (by decide)
      · exact parts_mono (parts_eraseCapturing _ _) (by decide)

theorem parts_settle (k : Nat) (s : State) :
    onlyParts [.account, .retention, .capture, .hold, .notice, .job] s (settle k s) := by
  unfold settle
  split
  · exact parts_refl _ s
  · rename_i j _
    simp only
    refine parts_trans ?_ (parts_mono (parts_completeRetirement _ _) (by decide))
    refine parts_trans ?_ (parts_mono (parts_raise _ _) (by decide))
    refine parts_trans ?_ (parts_mono (parts_putJob _ _ _) (by decide))
    have h := parts_trans (parts_updateAccount (j.owner.getD 0) (fun a => a.giveBack (j.reserved.sub j.charged)) s)
      (parts_updateAccount (j.owner.getD 0) (fun a => { a with openJobs := a.openJobs - 1 }) _)
    split
    · exact parts_comp (parts_comp (l := [.account, .retention, .capture, .hold, .notice]) h (parts_settleSlot j _)
        (by decide) (by decide)) (parts_unbindPort _) (by decide) (by decide)
    · exact parts_mono h (by decide)

theorem parts_settleIfDone (k : Nat) (s : State) :
    onlyParts [.account, .retention, .capture, .hold, .notice, .job] s (settleIfDone k s) := by
  unfold settleIfDone
  split
  · exact parts_refl _ s
  · exact parts_ite (fun _ => parts_settle k s) (fun _ => parts_refl _ s)

theorem parts_pageDropClaim (s : State) :
    onlyParts [.account, .retention, .capture, .hold, .notice, .job] s (pageDropClaim s) := by
  unfold pageDropClaim
  split
  · exact parts_refl _ s
  · exact parts_trans (parts_mono (parts_putJob _ _ _) (by decide)) (parts_settleIfDone _ _)

theorem parts_dropAndStop (told : Bool) (why : StopReason) (s : State) :
    onlyParts [.account, .retention, .capture, .hold, .notice, .job] s (dropAndStop told why s) := by
  refine parts_trans ?_ (parts_mono (parts_stopTag _ _ _) (by decide))
  refine parts_trans ?_ (parts_pageDropClaim _)
  have h := parts_mono (l' := [.account, .retention, .capture, .hold, .notice, .job]) (parts_dropPage s) (by decide)
  exact parts_ite (fun _ => parts_trans h (parts_mono (parts_sendStatus _ _) (by decide))) (fun _ => h)

theorem parts_eraseForRetirement (s : State) (n : Nat) :
    onlyParts [.account, .retention, .capture, .hold, .notice, .job] s (eraseForRetirement s n) := by
  unfold eraseForRetirement
  split
  · exact parts_refl _ s
  · exact parts_mono (parts_eraseHeld n s) (by decide)
  · exact parts_comp (parts_eraseHeld n s) (parts_raise _ _) (by decide) (by decide)
  · refine parts_ite (fun _ => ?_) (fun _ => parts_mono (parts_eraseCapturing n s) (by decide))
    refine parts_trans ?_ (parts_pageDropClaim _)
    exact parts_comp (parts_comp (l := [.capture, .hold]) (parts_dropPage s) (parts_sendStatus _ _) (by decide) (by decide))
      (parts_eraseCapturing n _) (by decide) (by decide)

theorem parts_endRequest (i : Nat) (s : State) :
    onlyParts [.account, .retention, .capture, .hold, .notice] s (endRequest i s) := by
  unfold endRequest
  split
  · exact parts_refl _ s
  · exact parts_ite (fun _ => parts_endRelease _ s) (fun _ => parts_refl _ s)

theorem parts_suspend (i : Nat) (why : SuspendReason) (s : State) :
    onlyParts [.account, .retention, .capture, .hold, .notice, .job] s (suspend i why s) :=
  parts_comp (parts_comp (l := [.account, .retention, .capture, .hold, .notice]) (parts_updateAccount i _ s)
    (parts_endRequest i _) (by decide) (by decide)) (parts_issueStops _ _ _) (by decide) (by decide)

theorem parts_expireSlot (s : State) (n : Nat) :
    onlyParts [.account, .retention, .capture, .hold] s (expireSlot s n) :=
  parts_ite (fun _ => parts_mono (parts_putSlot _ _ s) (by decide)) (fun _ => parts_eraseHeld n s)

theorem parts_expiryWalk (noted : Bool) (s : State) :
    onlyParts [.account, .retention, .capture, .hold, .notice] s (expiryWalk noted s) := by
  refine parts_trans ?_ (parts_mono (parts_raiseIf _ _ _) (by decide))
  refine parts_trans (parts_mono (parts_foldl parts_expireSlot s (dueSlots s)) (by decide)) ?_
  intro p hp; cases p <;> simp at hp <;> rfl

theorem parts_completePage (s : State) :
    onlyParts [.account, .retention, .capture, .hold, .notice, .job] s (completePage s) := by
  unfold completePage
  simp only
  have h : ∀ t : State, onlyParts [.hold] s t → onlyParts [.account, .retention, .capture, .hold, .notice, .job] s
      { t with captureUnit := { t.captureUnit with phase := .waiting, page := none } } := by
    intro t ht p hp; have := ht p; cases p <;> simp at hp <;> exact this (by simp)
  have h1 : onlyParts [.hold] s (match s.captureUnit.boundSlot with
      | none => s
      | some n => putSlot n { keySlot s n with pages := (keySlot s n).pages + 1 } s) := by
    split
    · exact parts_refl _ s
    · exact parts_putSlot _ _ s
  split
  · exact h _ h1
  · refine parts_trans (h _ h1) ?_
    refine parts_trans ?_ (parts_settleIfDone _ _)
    exact parts_comp (parts_putJob _ _ _) (parts_updateAccount _ _ _) (by decide) (by decide)

theorem parts_completeIfWritten (s : State) :
    onlyParts [.account, .retention, .capture, .hold, .notice, .job] s (completeIfWritten s) :=
  parts_ite (fun _ => parts_completePage s) (fun _ => parts_refl _ s)

/-! ### What leaves the part up, or down

Of the fields of the retention unit these operations change the walk's marks alone, so that the next event is taken, or
not, as this one was. -/

/-- An event that leaves the retention unit as it is leaves the part up or down. -/
theorem down_of_parts {l : List Part} {s t : State} (h : onlyParts l s t) (hl : Part.retention ∉ l) : down t = down s := by
  have h' : t.retentionUnit = s.retentionUnit := h .retention hl
  simp only [down, h']

/-- The supply and the reset decide whether the part is down. -/
theorem down_congr {s t : State} (hs : t.retentionUnit.supply = s.retentionUnit.supply)
    (hr : t.retentionUnit.reset = s.retentionUnit.reset) : down t = down s := by
  simp only [down, hs, hr]

theorem down_updateAccount (i : Nat) (f : Account → Account) (s : State) : down (updateAccount i f s) = down s := by
  unfold updateAccount
  simp only
  split <;> exact down_congr rfl rfl

theorem down_completeRetirement (i : Nat) (s : State) : down (completeRetirement i s) = down s := by
  unfold completeRetirement
  simp only
  split
  · exact down_updateAccount ..
  · rfl

theorem down_dropHeldScan (owner : Option Nat) (s : State) : down (dropHeldScan owner s) = down s := by
  unfold dropHeldScan
  split
  · rfl
  · exact down_updateAccount ..

theorem down_eraseCapturing (n : Nat) (s : State) : down (eraseCapturing n s) = down s := by
  refine (down_congr (s := blankSlot n s) rfl rfl).trans ?_
  unfold blankSlot
  exact (down_dropHeldScan _ _).trans (down_congr rfl rfl)

theorem down_settleSlot (j : Job) (s : State) : down (settleSlot j s).2 = down s := by
  unfold settleSlot
  split
  · rfl
  · split
    · rfl
    · simp only
      split
      · exact down_congr rfl rfl
      · exact down_eraseCapturing ..

theorem down_settle (k : Nat) (s : State) : down (settle k s) = down s := by
  unfold settle
  split
  · rfl
  · rename_i j _
    simp only
    refine (down_completeRetirement _ _).trans ?_
    refine (down_of_parts (parts_raise _ _) (by decide)).trans ?_
    refine (down_of_parts (parts_putJob _ _ _) (by decide)).trans ?_
    have h := (down_updateAccount (j.owner.getD 0) (fun a => { a with openJobs := a.openJobs - 1 })
      (updateAccount (j.owner.getD 0) (fun a => a.giveBack (j.reserved.sub j.charged)) s)).trans
      (down_updateAccount (j.owner.getD 0) (fun a => a.giveBack (j.reserved.sub j.charged)) s)
    split
    · exact (down_of_parts (parts_unbindPort _) (by decide)).trans ((down_settleSlot j _).trans h)
    · exact h

theorem down_settleIfDone (k : Nat) (s : State) : down (settleIfDone k s) = down s := by
  unfold settleIfDone
  split
  · rfl
  · split
    · exact down_settle k s
    · rfl

end Sys2Proof.Machine
end

