-- ==== Sys2Proof/Laws/Lane.lean ====
section
/-! SUPPORT. The data lane of the capture port: which parts of the state its messages may change, and when a message is
taken, held back or sent (R130, R145, log 29). -/
namespace Sys2Proof.Machine

/-- The parts that a message of the data lane may change: the page, its slot, its job and that job's owner. -/
abbrev laneParts : List Part := [.account, .retention, .capture, .hold, .notice, .job]

theorem parts_discardLine (s : State) : onlyParts [.capture] s (discardLine s) := by
  intro p hp; cases p <;> simp at hp <;> rfl

theorem parts_appendLine (b : BandStore) (page : Page) (pixels : List Byte) (s : State) :
    onlyParts [.capture] s (appendLine b page pixels s) := by
  intro p hp; cases p <;> simp at hp <;> rfl

theorem parts_exhaust (s : State) : onlyParts laneParts s (exhaust s) :=
  parts_comp (parts_dropAndStop true .imageFull s) (parts_raise _ _) (by decide) (by decide)

/-- A hand-off that finds a descriptor and a run changes the capture unit and the slot. -/
theorem parts_handOff {s t : State} (h : handOff s = some t) : onlyParts [.capture, .hold] s t := by
  unfold handOff at h
  simp only at h
  split at h
  · split at h
    · cases h
      intro p hp; cases p <;> simp at hp <;> rfl
    · exact absurd h (by simp)
  · exact absurd h (by simp)

theorem parts_finishPage (s : State) : onlyParts laneParts s (finishPage s) := by
  refine parts_comp (l1 := [.capture]) ?_ (parts_completeIfWritten _) (by decide) (by decide)
  intro p hp; cases p <;> simp at hp <;> rfl

theorem parts_endAtLimit (s : State) : onlyParts laneParts s (endAtLimit s) :=
  parts_comp (parts_sendStatus _ s) (parts_finishPage _) (by decide) (fun _ h => h)

theorem parts_handOffThen {f : State → State} (hf : ∀ s, onlyParts laneParts s (f s)) (s : State) :
    onlyParts laneParts s (handOffThen f s) := by
  unfold handOffThen
  split
  · exact parts_comp (parts_handOff ‹_›) (hf _) (by decide) (fun _ h => h)
  · exact parts_exhaust s

theorem parts_handOffRest {f : State → State} (hf : ∀ s, onlyParts laneParts s (f s)) (s : State) :
    onlyParts laneParts s (handOffRest f s) :=
  parts_ite (fun _ => hf s) (fun _ => parts_handOffThen hf s)

theorem parts_receiveLine (b : BandStore) (page : Page) (format : LineFormat) (pixels : List Byte) (s : State) :
    onlyParts laneParts s (receiveLine b page format pixels s) := by
  have h : ∀ t, onlyParts laneParts t ((if Config.pageLines ≤ page.lines + 1 then endAtLimit else id) t) := by
    intro t
    split
    · exact parts_endAtLimit t
    · exact parts_refl _ t
  refine parts_ite (fun _ => parts_dropAndStop true .scannerAbort s) (fun _ => ?_)
  refine parts_comp (parts_appendLine b page pixels s) ?_ (by decide) (fun _ h => h)
  exact parts_ite (fun _ => parts_handOffThen h _) (fun _ => h _)

theorem parts_line (pixels : List Byte) (s : State) : onlyParts laneParts s (line pixels s) := by
  refine parts_ite (fun _ => parts_mono (parts_discardLine s) (by decide)) (fun _ => ?_)
  split
  · exact parts_receiveLine _ _ _ _ s
  · exact parts_refl _ s

theorem parts_acceptPage (k : Nat) (j : Job) (s : State) : onlyParts [.capture, .job] s (acceptPage k j s) := by
  intro p hp; cases p <;> simp at hp <;> rfl

theorem parts_pageBegin (s : State) : onlyParts laneParts s (pageBegin s) := by
  unfold pageBegin
  split
  · exact parts_comp (parts_sendStatus _ s) (parts_raise _ _) (by decide) (by decide)
  · split
    · exact parts_refl _ s
    · exact parts_mono (parts_acceptPage _ _ s) (by decide)

theorem parts_lineLimit (s : State) : onlyParts laneParts s (lineLimit s) := by
  unfold lineLimit
  split
  · exact parts_refl _ s
  · exact parts_ite (fun _ => parts_handOffRest parts_endAtLimit s) (fun _ => parts_refl _ s)

theorem parts_pageEnd (s : State) : onlyParts laneParts s (pageEnd s) := by
  unfold pageEnd
  split
  · exact parts_refl _ s
  · refine parts_ite (fun _ => parts_refl _ s) (fun _ => ?_)
    exact parts_ite (fun _ => parts_dropAndStop true .scannerAbort s) (fun _ => parts_handOffRest parts_finishPage s)

theorem parts_scanAbort (s : State) : onlyParts laneParts s (scanAbort s) :=
  parts_ite (fun _ => parts_dropAndStop false .scannerAbort s) (fun _ => parts_refl _ s)

/-- What a message may change once it is taken. -/
theorem parts_takeMessage (m : LaneMessage) (s : State) : onlyParts laneParts s (takeMessage m s) := by
  cases m with
  | line pixels => exact parts_line pixels s
  | pageBegin => exact parts_pageBegin s
  | pageEnd => exact parts_pageEnd s
  | scanAbort => exact parts_scanAbort s

/-- What sending messages one after the other may change. -/
theorem parts_deliver (l : List LaneMessage) (s : State) : onlyParts laneParts s (deliver l s) := by
  induction l generalizing s with
  | nil => intro p hp; cases p <;> simp at hp <;> rfl
  | cons m rest ih =>
    refine parts_ite (fun _ => parts_trans (parts_takeMessage m s) (ih _)) (fun _ => ?_)
    intro p hp; cases p <;> simp at hp <;> rfl

theorem parts_arrive (m : LaneMessage) (s : State) : onlyParts laneParts s (arrive m s) :=
  parts_ite (fun _ => parts_takeMessage m s) (fun _ => parts_deliver _ s)

theorem parts_sendHeld (s : State) : onlyParts laneParts s (sendHeld s) :=
  parts_ite (fun _ => parts_refl _ s) (fun _ => parts_deliver _ s)

/-- With nothing held back, a message that may be sent is taken at once. -/
theorem arrive_taken {m : LaneMessage} {s : State} (h : s.captureUnit.heldBack = [])
    (hm : mayTake m s.captureUnit = true) : arrive m s = takeMessage m s := if_pos ⟨h, hm⟩

/-- A line that finds the ready indication off is held back. -/
theorem arrive_held {m : LaneMessage} {s : State} (h : s.captureUnit.heldBack = [])
    (hm : mayTake m s.captureUnit = false) :
    arrive m s = { s with captureUnit := { s.captureUnit with heldBack := [m] } } := by
  simp [arrive, deliver, h, hm]

/-- A message that comes up behind a line that still may not be sent waits behind it. -/
theorem arrive_behind {m first : LaneMessage} {rest : List LaneMessage} {s : State}
    (h : s.captureUnit.heldBack = first :: rest) (hm : mayTake first s.captureUnit = false) :
    arrive m s = { s with captureUnit := { s.captureUnit with heldBack := first :: rest ++ [m] } } := by
  simp [arrive, deliver, h, hm]

/-- With nothing held back there is nothing to send. -/
theorem sendHeld_nil {s : State} (h : s.captureUnit.heldBack = []) : sendHeld s = s := if_pos h

/-- A line may be sent exactly where the port is UNBOUND or WAITING, or a store is filling (R130, R145). -/
theorem mayTake_line (pixels : List Byte) (u : CaptureUnit) :
    mayTake (.line pixels) u = true ↔ u.filling.isSome = true ∨ u.phase = .unbound ∨ u.phase = .waiting := by
  simp [mayTake, CaptureUnit.readyIndication, or_assoc]

/-- The end of a band's write may change the page, its slot, its job, that job's owner, and image memory. -/
theorem parts_writeBand (n : Nat) (h : HandedOff) (rest : List HandedOff) (d : Descriptor) (s : State) :
    onlyParts [.capture, .image] s (writeBand n h rest d s) := by
  intro p hp; cases p <;> simp at hp <;> rfl

theorem parts_bandWriteEnd (s : State) : onlyParts (.image :: laneParts) s (bandWriteEnd s) := by
  unfold bandWriteEnd
  split
  · split
    · exact parts_refl _ s
    · exact parts_comp (parts_writeBand _ _ _ _ s) (parts_completeIfWritten _) (by decide) (by decide)
  · exact parts_refl _ s

end Sys2Proof.Machine
end

