-- ==== Sys2Proof/Laws/Link.lean ====
section
/-! SUPPORT. The sheet link: which parts of the state its frames may change, and what the receiver makes of the bytes
that arrive (R55 to R57, log 28). -/
namespace Sys2Proof.Machine

/-! ### Which parts change -/

/-- The parts that a frame on the sheet link may change: the sheet, its job and that job's owner, the stations that
spend doses, and, where a job settles, its port and its slot. -/
abbrev linkParts : List Part := [.sheet, .account, .retention, .job, .notice, .station, .random, .capture, .hold]

theorem parts_sendAnswer (f : List Byte) (s : State) : onlyParts [.sheet] s (sendAnswer f s) := by
  intro p hp; cases p <;> simp at hp <;> rfl

theorem parts_removeSheet (n : BitVec 16) (s : State) : onlyParts [.sheet] s (removeSheet n s) := by
  intro p hp; cases p <;> simp at hp <;> rfl

theorem parts_badFrame (s : State) : onlyParts [.sheet, .notice] s (badFrame s) := by
  intro p hp; cases p <;> simp at hp <;> rfl

theorem parts_grantSheet (a : FeedAsk) (s : State) : onlyParts [.sheet, .job] s (grantSheet a s) := by
  unfold grantSheet
  simp only
  split <;> (intro p hp; cases p <;> simp at hp <;> rfl)

theorem parts_haltForAccount (tag : Nat) (s : State) : onlyParts [.job, .notice] s (haltForAccount tag s) := by
  unfold haltForAccount
  split
  · exact parts_refl _ s
  · split
    · exact parts_refl _ s
    · exact parts_stopTag _ _ s

/-- What the decision of a FEED_ASK may change. -/
theorem parts_takeAsk (a : FeedAsk) (s : State) : onlyParts [.sheet, .job, .notice] s (takeAsk a s) := by
  unfold takeAsk
  simp only
  refine parts_comp (l1 := [.sheet, .job, .notice]) ?_ (parts_sendAnswer _ _) (fun _ h => h) (by decide)
  split
  · exact parts_ite (fun _ => parts_refl _ s) (fun _ => parts_mono (parts_grantSheet a s) (by decide))
  · exact parts_mono (parts_haltForAccount _ s) (by decide)
  · exact parts_mono (parts_raise _ s) (by decide)
  · exact parts_refl _ s

/-- What a resolution claim may change. -/
theorem parts_resolveClaim (how : Resolution) (e : Sheet) (s : State) :
    onlyParts [.account, .retention, .job, .notice, .capture, .hold] s (resolveClaim how e s) := by
  unfold resolveClaim
  split
  · exact parts_refl _ s
  · rename_i k j _
    simp only
    refine parts_comp (parts_putJob k (j.resolve how e) s) (parts_trans ?_ (parts_mono (parts_settleIfDone k _) (by decide)))
      (by decide) (fun _ h => h)
    exact parts_ite (fun _ => parts_refl _ _) (fun _ => parts_mono (parts_updateAccount _ _ _) (by decide))

theorem parts_strayReport (r : SheetReport) (s : State) : onlyParts [.sheet, .notice] s (strayReport r s) := by
  intro p hp; cases p <;> simp at hp <;> rfl

theorem parts_takeDelivered (r : SheetReport) (s : State) : onlyParts linkParts s (takeDelivered r s) := by
  unfold takeDelivered
  split
  · exact parts_mono (parts_strayReport r s) (by decide)
  · simp only
    refine parts_trans ?_ (parts_mono (parts_sendAnswer _ _) (by decide))
    refine parts_trans ?_ (parts_mono (parts_countSheet _) (by decide))
    refine parts_trans ?_ (parts_mono (parts_removeSheet _ _) (by decide))
    exact parts_comp (parts_resolveClaim _ _ s) (parts_passDoses _ r _) (by decide) (by decide)

theorem parts_takeJammed (imaged : Byte) (r : SheetReport) (s : State) :
    onlyParts linkParts s (takeJammed imaged r s) := by
  unfold takeJammed
  split
  · exact parts_mono (parts_strayReport r s) (by decide)
  · rename_i e _
    simp only
    refine parts_trans ?_ (parts_mono (parts_sendAnswer _ _) (by decide))
    refine parts_trans ?_ (parts_mono (parts_removeSheet _ _) (by decide))
    refine parts_comp (parts_resolveClaim .jammed e s) ?_ (by decide) (fun _ h => h)
    exact parts_ite (fun _ => parts_mono (parts_passDoses _ r _) (by decide)) (fun _ => parts_refl _ _)

/-- What a gathered frame may change. -/
theorem parts_takeFrame (bytes : List Byte) (s : State) : onlyParts linkParts s (takeFrame bytes s) := by
  refine parts_ite (fun _ => parts_mono (parts_badFrame s) (by decide)) (fun _ => ?_)
  refine parts_ite (fun _ => parts_mono (parts_takeAsk _ s) (by decide)) (fun _ => ?_)
  exact parts_ite (fun _ => parts_takeDelivered _ s) (fun _ => parts_takeJammed _ _ s)

/-- What bytes on the link may change. -/
theorem parts_receive (bytes : List Byte) (s : State) : onlyParts linkParts s (receive bytes s) := by
  refine parts_foldl (fun s b => ?_) s bytes
  unfold receiveByte
  simp only
  have h : onlyParts linkParts s { s with sheetLink := { s.sheetLink with receiver := (s.sheetLink.receiver.take b).1 } } := by
    intro p hp; cases p <;> simp at hp <;> rfl
  split
  · exact h
  · exact parts_trans h (parts_takeFrame _ _)

theorem parts_gapTimeout (s : State) : onlyParts [.sheet, .notice] s (gapTimeout s) :=
  parts_ite (fun _ => parts_refl _ s) (fun _ => parts_badFrame s)

/-! ### The receiver -/

/-- A byte that begins no frame is discarded in IDLE. -/
theorem receiveByte_discards {s : State} {b : Byte} (h : s.sheetLink.receiver = .idle) (hb : b ≠ 0xA5#8) :
    receiveByte s b = s := by
  simp only [receiveByte, Receiver.take, h, if_neg hb]
  rw [← h]

/-- A start byte begins a frame. -/
theorem receiveByte_begins {s : State} (h : s.sheetLink.receiver = .idle) :
    receiveByte s 0xA5#8 = { s with sheetLink := { s.sheetLink with receiver := .gathering [0xA5#8] } } := by
  simp [receiveByte, Receiver.take, h]

/-- A byte of a frame that does not complete it is gathered. -/
theorem receiveByte_gathers {s : State} {l : List Byte} {b : Byte} (h : s.sheetLink.receiver = .gathering l)
    (hg : gathered (l ++ [b]) = false) :
    receiveByte s b = { s with sheetLink := { s.sheetLink with receiver := .gathering (l ++ [b]) } } := by
  simp [receiveByte, Receiver.take, h, hg]

/-- The byte that completes a frame has it taken, with the receiver IDLE. -/
theorem receiveByte_completes {s : State} {l : List Byte} {b : Byte} (h : s.sheetLink.receiver = .gathering l)
    (hg : gathered (l ++ [b]) = true) :
    receiveByte s b =
      takeFrame (l ++ [b]) { s with sheetLink := { s.sheetLink with receiver := .idle } } := by
  simp [receiveByte, Receiver.take, h, hg]

/-- Bytes none of which completes the frame are gathered behind those before them. -/
theorem receive_gathering (l bytes : List Byte) (s : State) (h : s.sheetLink.receiver = .gathering l)
    (hg : ∀ pre post, bytes = pre ++ post → pre ≠ [] → gathered (l ++ pre) = false) :
    receive bytes s = { s with sheetLink := { s.sheetLink with receiver := .gathering (l ++ bytes) } } := by
  induction bytes generalizing l s with
  | nil => simp only [receive, List.foldl_nil, List.append_nil, ← h]
  | cons b rest ih =>
    have hb : gathered (l ++ [b]) = false := hg [b] rest rfl (by simp)
    show receive rest (receiveByte s b) = _
    rw [receiveByte_gathers h hb, ih (l ++ [b]) _ rfl]
    · simp
    · intro pre post hp hne
      have := hg (b :: pre) post (by rw [hp]; rfl) (by simp)
      simpa using this

/-- No proper beginning of a frame is a whole frame: the length byte says how many bytes it has. -/
theorem gathered_prefix {pre post : List Byte} (h : gathered (pre ++ post) = true) (hp : post ≠ []) :
    gathered pre = false := by
  refine Bool.eq_false_iff.mpr fun hc => ?_
  simp only [gathered, announcedLength, Bool.and_eq_true, decide_eq_true_eq, beq_iff_eq] at h hc
  have h2 : (pre ++ post).getD 2 0 = pre.getD 2 0 := by
    simp [List.getD, List.getElem?_append_left (show 2 < pre.length by omega)]
  have := h.2
  rw [h2, List.length_append] at this
  exact hp (List.length_eq_zero_iff.mp (by omega))

/-- No beginning of a frame that is partly gathered is a whole one. -/
theorem partlyGathered_prefix {pre post : List Byte} (h : partlyGathered (pre ++ post) = true) :
    gathered pre = false := by
  refine Bool.eq_false_iff.mpr fun hc => ?_
  simp only [gathered, partlyGathered, announcedLength, Bool.and_eq_true, Bool.or_eq_true, decide_eq_true_eq,
    beq_iff_eq] at h hc
  have h2 : (pre ++ post).getD 2 0 = pre.getD 2 0 := by
    simp [List.getD, List.getElem?_append_left (show 2 < pre.length by omega)]
  have := h.2
  simp only [h2, List.length_append, decide_eq_true_eq] at this
  omega

/-- A frame begins with its start byte. -/
theorem start_of_head {bytes : List Byte} (h : (bytes.head? == some 0xA5#8) = true) :
    ∃ rest, bytes = 0xA5#8 :: rest := by
  match bytes, h with
  | b :: rest, h => exact ⟨rest, by simp at h; rw [h]⟩

/-- In IDLE the bytes of a whole frame end in its being taken. -/
theorem receive_gathered {bytes : List Byte} {s : State} (h : s.sheetLink.receiver = .idle)
    (hg : gathered bytes = true) : receive bytes s = takeFrame bytes s := by
  have hs : (bytes.head? == some 0xA5#8) = true ∧ 3 ≤ bytes.length := by
    simp only [gathered, Bool.and_eq_true, decide_eq_true_eq] at hg; exact hg.1
  obtain ⟨rest, rfl⟩ := start_of_head hs.1
  obtain ⟨mid, last, rfl⟩ : ∃ mid last, rest = mid ++ [last] :=
    ⟨rest.dropLast, rest.getLast (by rintro rfl; simp at hs), (List.dropLast_concat_getLast _).symm⟩
  show receive (mid ++ [last]) (receiveByte s 0xA5#8) = _
  rw [receiveByte_begins h, receive, List.foldl_append]
  show receiveByte (receive mid _) last = _
  rw [receive_gathering [0xA5#8] mid _ rfl, receiveByte_completes rfl (by simpa using hg)]
  · simp only [← h]; rfl
  · intro pre post hp _
    refine gathered_prefix (post := post ++ [last]) ?_ (by simp)
    rw [hp] at hg; simpa using hg

/-- In IDLE the bytes of a frame that is not complete are gathered. -/
theorem receive_partly {bytes : List Byte} {s : State} (h : s.sheetLink.receiver = .idle)
    (hg : partlyGathered bytes = true) :
    receive bytes s = { s with sheetLink := { s.sheetLink with receiver := .gathering bytes } } := by
  have hs : (bytes.head? == some 0xA5#8) = true := by
    simp only [partlyGathered, Bool.and_eq_true] at hg; exact hg.1
  obtain ⟨rest, rfl⟩ := start_of_head hs
  show receive rest (receiveByte s 0xA5#8) = _
  rw [receiveByte_begins h, receive_gathering [0xA5#8] rest _ rfl]
  · rfl
  · intro pre post hp _
    refine partlyGathered_prefix (post := post) ?_
    rw [hp] at hg; simpa using hg

/-- Bytes that arrive behind others arrive where those have left the part. -/
theorem receive_append (bytes more : List Byte) (s : State) :
    receive (bytes ++ more) s = receive more (receive bytes s) :=
  List.foldl_append

/-! ### The frames that the part can take -/

theorem length_frame (kind : Byte) (body : List Byte) : (frame kind body).length = body.length + 5 := by
  simp [frame]

/-- A frame of a body that its length byte can announce is a whole one. -/
theorem gathered_frame (kind : Byte) {body : List Byte} (h : body.length < 256) : gathered (frame kind body) = true := by
  have hn := toNat_byteOf _ h
  simp [gathered, announcedLength, frame, hn]

theorem frameBody_frame (kind : Byte) (body : List Byte) : frameBody (frame kind body) = body := by
  simp [frameBody, frame]

/-- A frame with its own CRC is good where its body is. -/
theorem frameGood_frame (kind : Byte) {body : List Byte} (h : body.length < 256) :
    frameGood (frame kind body) = bodyGood kind body := by
  have hc : ((frame kind body).drop 1).take ((frame kind body).length - 3) = kind :: byteOf body.length :: body := by
    rw [length_frame]; simp [frame]
  have hd : (frame kind body).drop ((frame kind body).length - 2) =
      [byteOf ((crc16 (kind :: byteOf body.length :: body)).toNat / 256),
        byteOf (crc16 (kind :: byteOf body.length :: body)).toNat] := by
    rw [length_frame]; simp [frame]
  simp only [frameGood, gathered_frame kind h, hc, hd]
  simp [frame]

/-- In IDLE the bytes of a frame end in its being taken by its kind, or discarded. -/
theorem receive_frame {kind : Byte} {body : List Byte} {s : State} (h : s.sheetLink.receiver = .idle)
    (hb : body.length < 256) :
    receive (frame kind body) s =
      if bodyGood kind body = false then badFrame s
      else if kind = 0x01 then takeAsk (feedAskOf body) s
      else if kind = 0x02 then takeDelivered (reportOf body 3) s
      else takeJammed (body.getD 3 0) (reportOf body 4) s := by
  rw [receive_gathered h (gathered_frame kind hb)]
  simp only [takeFrame, frameGood_frame kind hb, frameBody_frame]
  rfl

/-- The body of a FEED_ASK frame spells its ask. -/
theorem feedAskOf_body (a : FeedAsk) :
    feedAskOf (le 2 a.sheet.toNat ++ [a.tag, a.sides, a.size, a.class1, a.class2, a.mask]) = a := by
  have h := ofNat_ofLe_le a.sheet
  obtain ⟨sheet, tag, sides, size, class1, class2, mask⟩ := a
  simpa [feedAskOf, le_two, u16, field] using h

/-- The body of a report frame, whose doses begin behind so many bytes, spells its report. -/
theorem reportOf_body (r : SheetReport) (between : List Byte) (i : Nat) (hi : i = 3 + between.length) :
    reportOf (le 2 r.sheet.toNat ++ [r.tag] ++ between ++ (packDoses r.doses1 ++ packDoses r.doses2)) i = r := by
  subst hi
  have h := ofNat_ofLe_le r.sheet
  have hl : (le 2 r.sheet.toNat ++ [r.tag] ++ between).length = 3 + between.length := by simp; omega
  have h1 := dosesAt_packDoses (le 2 r.sheet.toNat ++ [r.tag] ++ between) (packDoses r.doses2) r.doses1
  have h2 := dosesAt_packDoses (le 2 r.sheet.toNat ++ [r.tag] ++ between ++ packDoses r.doses1) [] r.doses2
  rw [List.length_append, hl] at h2
  rw [hl] at h1
  obtain ⟨sheet, tag, d1, d2⟩ := r
  simp only [reportOf, SheetReport.mk.injEq]
  refine ⟨?_, ?_, ?_, ?_⟩
  · simpa [le_two, u16, field] using h
  · simp [le_two]
  · exact h1
  · simpa [Nat.add_assoc] using h2

/-- In IDLE the bytes of a FEED_ASK end in its decision, or in its discarding where a field is out of range. -/
theorem receive_feedAskFrame {a : FeedAsk} {s : State} (h : s.sheetLink.receiver = .idle) :
    receive (feedAskFrame a) s = if feedAskLegal a then takeAsk a s else badFrame s := by
  rw [feedAskFrame, receive_frame h (by simp)]
  simp only [feedAskOf_body]
  simp only [bodyGood, feedAskOf_body]
  cases feedAskLegal a <;> simp

/-- In IDLE the bytes of a DELIVERED end in its being taken, or in its discarding where a field is out of range. -/
theorem receive_deliveredFrame {r : SheetReport} {s : State} (h : s.sheetLink.receiver = .idle) :
    receive (deliveredFrame r) s = if reportLegal r then takeDelivered r s else badFrame s := by
  have hr := reportOf_body r [] 3 rfl
  simp only [List.append_nil, ← List.append_assoc] at hr
  rw [deliveredFrame, receive_frame h (by simp)]
  simp only [bodyGood, hr]
  cases reportLegal r <;> simp

/-- In IDLE the bytes of a JAMMED end in its being taken, or in its discarding where a field is out of range. -/
theorem receive_jammedFrame {imaged : Byte} {r : SheetReport} {s : State} (h : s.sheetLink.receiver = .idle) :
    receive (jammedFrame imaged r) s = if jammedLegal imaged r then takeJammed imaged r s else badFrame s := by
  have hr := reportOf_body r [imaged] 4 rfl
  have hb : le 2 r.sheet.toNat ++ [r.tag] ++ [imaged] ++ (packDoses r.doses1 ++ packDoses r.doses2) =
      le 2 r.sheet.toNat ++ [r.tag, imaged] ++ packDoses r.doses1 ++ packDoses r.doses2 := by simp
  have hi : (le 2 r.sheet.toNat ++ [r.tag, imaged] ++ packDoses r.doses1 ++ packDoses r.doses2).getD 3 0 = imaged := by
    simp [le_two]
  rw [hb] at hr
  rw [jammedFrame, receive_frame h (by simp)]
  simp only [bodyGood, hr, hi]
  cases jammedLegal imaged r <;> simp

/-! ### Bytes leave the part up, or down -/

theorem down_resolveClaim (how : Resolution) (e : Sheet) (s : State) : down (resolveClaim how e s) = down s := by
  unfold resolveClaim
  split
  · rfl
  · refine (down_settleIfDone _ _).trans ?_
    split
    · rfl
    · exact down_updateAccount ..

theorem down_takeDelivered (r : SheetReport) (s : State) : down (takeDelivered r s) = down s := by
  unfold takeDelivered
  split
  · rfl
  · refine (down_of_parts (parts_countSheet _) (by decide)).trans ?_
    exact (down_of_parts (parts_passDoses _ r _) (by decide)).trans (down_resolveClaim ..)

theorem down_takeJammed (imaged : Byte) (r : SheetReport) (s : State) : down (takeJammed imaged r s) = down s := by
  unfold takeJammed
  split
  · rfl
  · simp only
    show down (if imaged = 1 then _ else _) = _
    split
    · exact (down_of_parts (parts_passDoses _ r _) (by decide)).trans (down_resolveClaim ..)
    · exact down_resolveClaim ..

theorem down_takeFrame (bytes : List Byte) (s : State) : down (takeFrame bytes s) = down s := by
  unfold takeFrame
  simp only
  split
  · rfl
  · split
    · exact down_of_parts (parts_takeAsk _ s) (by decide)
    · split
      · exact down_takeDelivered ..
      · exact down_takeJammed ..

/-- Bytes on the link leave the part up, so that those behind them are taken too. -/
theorem down_receive (bytes : List Byte) (s : State) : down (receive bytes s) = down s := by
  induction bytes generalizing s with
  | nil => rfl
  | cons b rest ih =>
    refine (ih _).trans ?_
    unfold receiveByte
    simp only
    split
    · rfl
    · exact down_takeFrame ..

end Sys2Proof.Machine
end

