-- ==== Sys2Proof/Laws/PerInstr.lean ====
section
/-! SUPPORT. Per command: a well-formed host command is a record that fits the command area, under a code the
manual defines; events at the other ports are no host commands. -/
namespace Sys2Proof.Laws.WellFormed
open Sys2Proof.Machine

/-- A well-formed command that is a host command has a defined code, a defined body length, and a body that fits
the 124 body bytes of the command area (R183, R213). -/
def Statement (i : Instr) : Prop :=
  i.wellFormed = true → ∀ code length r, hostCommand i = some (code, length, r) →
    code ∈ definedCodes ∧ length ≤ 36 ∧ r.body.length ≤ 124

/-- What each host command's lemma comes to. -/
theorem host {i : Instr} {code length : Nat} {r : Request} (hh : hostCommand i = some (code, length, r))
    (hw : i.wellFormed = r.wellFormed) (hc : code ∈ definedCodes) (hl : length ≤ 36) : Statement i := by
  intro h code' length' r' e
  rw [hh] at e
  cases e
  rw [hw] at h
  exact ⟨hc, hl, by simpa [Request.wellFormed] using h⟩

/-- What each other event's lemma comes to. -/
theorem event {i : Instr} (hh : hostCommand i = none) : Statement i := by
  intro _ code length r e
  rw [hh] at e
  cases e

theorem identify (r : Request) : Statement (.identify r) := host rfl rfl (by decide) (by decide)
theorem addAccount (r : Request) : Statement (.addAccount r) := host rfl rfl (by decide) (by decide)
theorem creditAccount (r : Request) : Statement (.creditAccount r) := host rfl rfl (by decide) (by decide)
theorem setAccountGroup (r : Request) : Statement (.setAccountGroup r) := host rfl rfl (by decide) (by decide)
theorem setCredential (r : Request) : Statement (.setCredential r) := host rfl rfl (by decide) (by decide)
theorem suspendAccount (r : Request) : Statement (.suspendAccount r) := host rfl rfl (by decide) (by decide)
theorem resumeAccount (r : Request) : Statement (.resumeAccount r) := host rfl rfl (by decide) (by decide)
theorem retireAccount (r : Request) : Statement (.retireAccount r) := host rfl rfl (by decide) (by decide)
theorem readAccount (r : Request) : Statement (.readAccount r) := host rfl rfl (by decide) (by decide)
theorem findAccount (r : Request) : Statement (.findAccount r) := host rfl rfl (by decide) (by decide)
theorem clearCounters (r : Request) : Statement (.clearCounters r) := host rfl rfl (by decide) (by decide)
theorem setGroupPolicy (r : Request) : Statement (.setGroupPolicy r) := host rfl rfl (by decide) (by decide)
theorem readGroupPolicy (r : Request) : Statement (.readGroupPolicy r) := host rfl rfl (by decide) (by decide)
theorem openJob (r : Request) : Statement (.openJob r) := host rfl rfl (by decide) (by decide)
theorem extendJob (r : Request) : Statement (.extendJob r) := host rfl rfl (by decide) (by decide)
theorem closeJob (r : Request) : Statement (.closeJob r) := host rfl rfl (by decide) (by decide)
theorem abortJob (r : Request) : Statement (.abortJob r) := host rfl rfl (by decide) (by decide)
theorem readJob (r : Request) : Statement (.readJob r) := host rfl rfl (by decide) (by decide)
theorem dismissJob (r : Request) : Statement (.dismissJob r) := host rfl rfl (by decide) (by decide)
theorem readSheets (r : Request) : Statement (.readSheets r) := host rfl rfl (by decide) (by decide)
theorem readStation (r : Request) : Statement (.readStation r) := host rfl rfl (by decide) (by decide)
theorem recheckStation (r : Request) : Statement (.recheckStation r) := host rfl rfl (by decide) (by decide)
theorem setGrace (r : Request) : Statement (.setGrace r) := host rfl rfl (by decide) (by decide)
theorem writeBackYield (r : Request) : Statement (.writeBackYield r) := host rfl rfl (by decide) (by decide)
theorem setRotation (r : Request) : Statement (.setRotation r) := host rfl rfl (by decide) (by decide)
theorem readRotation (r : Request) : Statement (.readRotation r) := host rfl rfl (by decide) (by decide)
theorem readCapture (r : Request) : Statement (.readCapture r) := host rfl rfl (by decide) (by decide)
theorem releaseScan (r : Request) : Statement (.releaseScan r) := host rfl rfl (by decide) (by decide)
theorem cancelRelease (r : Request) : Statement (.cancelRelease r) := host rfl rfl (by decide) (by decide)
theorem deleteScan (r : Request) : Statement (.deleteScan r) := host rfl rfl (by decide) (by decide)
theorem listHeld (r : Request) : Statement (.listHeld r) := host rfl rfl (by decide) (by decide)
theorem readScan (r : Request) : Statement (.readScan r) := host rfl rfl (by decide) (by decide)
theorem readNotices (r : Request) : Statement (.readNotices r) := host rfl rfl (by decide) (by decide)
theorem clearNotices (r : Request) : Statement (.clearNotices r) := host rfl rfl (by decide) (by decide)
theorem setNoticeEnable (r : Request) : Statement (.setNoticeEnable r) := host rfl rfl (by decide) (by decide)
theorem readFault (r : Request) : Statement (.readFault r) := host rfl rfl (by decide) (by decide)
theorem clearFault (r : Request) : Statement (.clearFault r) := host rfl rfl (by decide) (by decide)
theorem preserveAccounts (r : Request) : Statement (.preserveAccounts r) := host rfl rfl (by decide) (by decide)
theorem enterStandby (r : Request) : Statement (.enterStandby r) := host rfl rfl (by decide) (by decide)
theorem exitStandby (r : Request) : Statement (.exitStandby r) := host rfl rfl (by decide) (by decide)
theorem goCollision : Statement .goCollision := event rfl
theorem commandAreaWrite (offset : Nat) (bytes : List Byte) : Statement (.commandAreaWrite offset bytes) := event rfl
theorem windowWrite (offset : Nat) (bytes : List Byte) : Statement (.windowWrite offset bytes) := event rfl
theorem streamPortRead : Statement .streamPortRead := event rfl
theorem keyDraw (key : BitVec 256) : Statement (.keyDraw key) := event rfl
theorem nonceDraw (st : Station) (nonce : BitVec 128) : Statement (.nonceDraw st nonce) := event rfl
theorem stopRequest (tag : Byte) : Statement (.stopRequest tag) := event rfl
theorem feedAsk (ask : FeedAsk) : Statement (.feedAsk ask) := event rfl
theorem delivered (report : SheetReport) : Statement (.delivered report) := event rfl
theorem jammed (imaged : Byte) (report : SheetReport) : Statement (.jammed imaged report) := event rfl
theorem badFrame (bytes : List Byte) : Statement (.badFrame bytes) := event rfl
theorem frameGapTimeout (bytes : List Byte) : Statement (.frameGapTimeout bytes) := event rfl
theorem sheetLapse (sheet : BitVec 16) : Statement (.sheetLapse sheet) := event rfl
theorem rotationInterval : Statement .rotationInterval := event rfl
theorem presenceAppears (st : Station) : Statement (.presenceAppears st) := event rfl
theorem presenceLost (st : Station) : Statement (.presenceLost st) := event rfl
theorem shortReported (st : Station) (kind : ShortKind) : Statement (.shortReported st kind) := event rfl
theorem shortClears (st : Station) (lineOpen : Bool) : Statement (.shortClears st lineOpen) := event rfl
theorem lineOpenChange (st : Station) (toOpen : Bool) : Statement (.lineOpenChange st toOpen) := event rfl
theorem exchangeWaitExpired (st : Station) : Statement (.exchangeWaitExpired st) := event rfl
theorem identReadAnswer (st : Station) (bytes : List Byte) : Statement (.identReadAnswer st bytes) := event rfl
theorem proofAnswer (st : Station) (bytes : List Byte) : Statement (.proofAnswer st bytes) := event rfl
theorem yieldWriteAnswer (st : Station) (bytes : List Byte) : Statement (.yieldWriteAnswer st bytes) := event rfl
theorem pageBegin : Statement .pageBegin := event rfl
theorem line (pixels : List Byte) : Statement (.line pixels) := event rfl
theorem lineLimit : Statement .lineLimit := event rfl
theorem pageEnd : Statement .pageEnd := event rfl
theorem scanAbort : Statement .scanAbort := event rfl
theorem bandWriteEnd : Statement .bandWriteEnd := event rfl
theorem minuteTick : Statement .minuteTick := event rfl
theorem expiryWalk : Statement .expiryWalk := event rfl
theorem bandReadEnd (outcome : BandRead) : Statement (.bandReadEnd outcome) := event rfl
theorem streamMove (count : Nat) : Statement (.streamMove count) := event rfl
theorem nvWriteEnd (completes : Bool) : Statement (.nvWriteEnd completes) := event rfl
theorem retainedSupplyLost : Statement .retainedSupplyLost := event rfl
theorem coldStart : Statement .coldStart := event rfl
theorem warmReset (cause : ResetCause) : Statement (.warmReset cause) := event rfl
theorem healthTestEnd (passes : Bool) : Statement (.healthTestEnd passes) := event rfl
theorem sheetTimerSecond (sheet : BitVec 16) : Statement (.sheetTimerSecond sheet) := event rfl
theorem resetCauseEnds (cause : ResetCause) : Statement (.resetCauseEnds cause) := event rfl
theorem undefinedCommandCode (code : BitVec 16) (r : Request) : Statement (.undefinedCommandCode code r) := event rfl

end Sys2Proof.Laws.WellFormed
end

