-- ==== Sys2Proof/Tests/Slice0.lean ====
section
/-! SUPPORT. The model's own tests: ill-formed commands, the published vectors of the cipher, one small step of many
commands, and for every statement with hypotheses a state and operands that meet them. -/
set_option Elab.async false
set_option synthInstance.maxSize 2000
set_option synthInstance.maxHeartbeats 200000

namespace Sys2Proof.Tests
open Sys2Proof.Machine

/-! ### States of the tests -/

/-- A command record whose body is these bytes and zeros up to the length. -/
def record (n : Nat) (bytes : List Byte) : Request :=
  ⟨BitVec.ofNat 16 n, bytes ++ List.replicate (n - bytes.length) 0⟩

/-- Account 7, in entry 0. -/
def member : Account :=
  { Account.free true with
    state := .active, number := some 7, group := 2, balance := ⟨100, 50, 20⟩, held := ⟨10, 5, 3⟩
    lifetime := ⟨1, 2, 4294967295⟩, digest := some ⟨[1, 2, 3, 4, 5, 6, 7, 8]⟩, failed := 2, openJobs := 1, heldScans := 1 }

/-- The part with one account. -/
def club : State := putAccount 0 member State.reset

/-- The state with account 7 changed. -/
def withMember (f : Account → Account) (s : State) : State := putAccount 0 (f (account s 0)) s

/-- A PRINT job of account 7 under tag 5. -/
def flyer : Job :=
  { tag := 5, kind := .print, owner := some 0, ownerNumber := 7, state := .ready, stopReason := none, endKind := none
    reserved := ⟨10, 5, 0⟩, committed := .zero, charged := ⟨1, 0, 0⟩, stationsUsed := .all false, delivered := 0
    jammed := 0, lapsed := 0, pagesCaptured := 0, slot := none, format := none, holdRequest := 0 }

/-- A SCAN job of account 7 under tag 6, whose slot is 2. -/
def survey : Job :=
  { flyer with tag := 6, kind := .scan, reserved := ⟨0, 0, 3⟩, charged := .zero, slot := some 2, format := some ⟨16, 1⟩ }

/-- The club with a job in entry 0. -/
def withJob0 (j : Job) : State := putJob 0 j club

/-- A GENUINE cartridge. -/
def seated : StationRecord :=
  { StationRecord.cold with
    state := .genuine, presence := true, cartridge := some ⟨100, 200000⟩, colour := some .k, remaining := 9000
    written := 9000 }

/-- The club with a station K so. -/
def withK (x : StationRecord) : State := putStation .k x club

/-- Sheet 500 of job 5 in the paper path. -/
def leaf : Sheet :=
  { tag := 5, sides := 1, size := 1, class1 := .mono, class2 := none, mask := stationsOf 1, committedMono := 1
    committedColour := 0, seconds := 30 }

/-- The flyer with its sheet committed. -/
def flyerOut : Job := { flyer with state := .active, committed := ⟨1, 0, 0⟩, stationsUsed := stationsOf 1 }

/-- The club printing: a job in entry 0, station K so, and sheet 500 in flight. -/
def printing (j : Job) (x : StationRecord) (e : Sheet) : State :=
  { putStation .k x (withJob0 j) with sheetLink := { SheetLink.afterReset with sheets := [(500, e)] } }

/-- An ask for sheet 500 of job 5. -/
def ask500 : FeedAsk := ⟨500, 5, 1, 1, 0, 0, 1⟩

/-- A report on sheet 500 with this dose at K. -/
def report500 (dose : BitVec 16) : SheetReport := ⟨500, 5, { PerStation.all 0 with k := dose }, .all 0⟩

/-- The state in STANDBY. -/
def resting (s : State) : State := { s with retentionUnit := { s.retentionUnit with power := .standby } }

/-- The state with a fault captured. -/
def faulty (s : State) : State :=
  { s with noticeUnit := { s.noticeUnit with fault := some ⟨.keygenFailed, 0, none, none, none⟩ } }

/-- The state with a command waiting. -/
def awaiting (i : Instr) (s : State) : State := { s with pending := [i] }

/-- The state that a step of a command leaves. -/
def after (i : Instr) (s : State) : State :=
  match step (awaiting i s) with
  | .next t => t
  | _ => s

/-! ### From tests to hypotheses -/

theorem everyStation {p : Station → Prop} (h : p .k ∧ p .c ∧ p .m ∧ p .y ∧ p .drum) : ∀ st, p st := by
  intro st; obtain ⟨hk, hc, hm, hy, hd⟩ := h; cases st <;> assumption

theorem noneReleasing {s : State} (h : s.holdUnit.slots.all (fun e => e.2.state != .releasing) = true) :
    ∀ n, (keySlot s n).state ≠ .releasing := by
  intro n hn
  unfold keySlot Table.read at hn
  cases hf : Table.find s.holdUnit.slots n with
  | none => rw [hf] at hn; cases hn
  | some x =>
    rw [hf] at hn
    have := List.all_eq_true.mp h _ (Table.find_mem hf)
    have hx : x.state = .releasing := hn
    simp [hx] at this

theorem find_mapRange {α : Type} {d : α} (n : Nat) : ∀ low b, low ≤ b → b < low + n →
    Table.find ((List.range' low n).map fun b => (b, d)) b = some d := by
  induction n with
  | zero => intro low b h1 h2; omega
  | succ n ih =>
    intro low b h1 h2
    rw [List.range'_succ, List.map_cons]
    by_cases h : low = b
    · subst h; simp [Table.find]
    · simp only [Table.find, h, if_false]
      exact ih (low + 1) b (by omega) (by omega)

/-! ### Ill-formed commands, which the checks refuse -/

theorem test_wellFormed_record : (Instr.identify ⟨0, List.replicate 125 0⟩).wellFormed = false := by decide +kernel
theorem test_wellFormed_commandArea :
    (Instr.commandAreaWrite 127 [0, 0]).wellFormed = false ∧ (Instr.commandAreaWrite 3 []).wellFormed = false := by decide +kernel
theorem test_wellFormed_window :
    (Instr.windowWrite 4094 [0, 0, 0]).wellFormed = false ∧ (Instr.windowWrite 8 []).wellFormed = false := by decide +kernel
theorem test_wellFormed_stopRequest : (Instr.stopRequest 0).wellFormed = false := by decide +kernel
theorem test_wellFormed_badFrame :
    (Instr.badFrame []).wellFormed = false := by decide +kernel
theorem test_wellFormed_answers :
    (Instr.identReadAnswer .k (List.replicate 18 0)).wellFormed = false ∧
    (Instr.proofAnswer .k (List.replicate 38 0)).wellFormed = false ∧
    (Instr.yieldWriteAnswer .k (List.replicate 7 0)).wellFormed = false := by decide +kernel
theorem test_wellFormed_streamMove : (Instr.streamMove 0).wellFormed = false := by decide +kernel
theorem test_wellFormed_undefinedCode :
    (Instr.undefinedCommandCode 16 (record 0 [])).wellFormed = false ∧
    (Instr.undefinedCommandCode 2 ⟨0, List.replicate 125 0⟩).wellFormed = false := by decide +kernel

/-! ### Published vectors, and checks worked by hand -/

/-- FIPS-197, C.3: AES-256 of 00112233… under the key 000102…1f. -/
theorem test_cipher_block :
    Cipher.encryptBlock (Cipher.roundKeys (bytesToBits 256 ((List.range 32).map byteOf)))
      ((List.range 16).map fun i => byteOf (17 * i)) = 0x8ea2b7ca516745bfeafc49904b496089 := by decide +kernel

/-- The GCM vectors of AES-256 with a zero key and nonce: the tag of nothing, and one zero block with its tag. -/
theorem test_cipher_gcm :
    Cipher.tag 0 (List.replicate 12 0) [] [] = 0x530f8afbc74536b9a963b4f1c4cb738b ∧
    Cipher.toBlock (Cipher.crypt 0 (List.replicate 12 0) (List.replicate 16 0)) = 0xcea7403d4d606b6e074ec5d3baf39d18 ∧
    Cipher.tag 0 (List.replicate 12 0) [] (Cipher.crypt 0 (List.replicate 12 0) (List.replicate 16 0)) =
      0xd0d1c8a799996bf0265b98b5d48ab919 := by decide +kernel

/-- The published check values of the two CRCs over "123456789": 0x29B1, and 0xF4. -/
theorem test_crc :
    crc16 [0x31, 0x32, 0x33, 0x34, 0x35, 0x36, 0x37, 0x38, 0x39] = 0x29B1 ∧
    crc8 [0x31, 0x32, 0x33, 0x34, 0x35, 0x36, 0x37, 0x38, 0x39] = 0xF4 := by decide +kernel


/-! ### The window and the command cycle: some steps, and the hypotheses of the statements -/

/-- ADD_ACCOUNT of account 9 in group 1 with 5 COLOUR units: OK with entry 1. -/
theorem test_addAccount :
    response (after (.addAccount (record 16 (le 2 9 ++ [1, 0] ++ le 3 0 ++ le 3 5))) club) = (1, [1, 0, 0, 0]) ∧
    (account (after (.addAccount (record 16 (le 2 9 ++ [1, 0] ++ le 3 0 ++ le 3 5))) club) 1).balance = ⟨0, 5, 0⟩ := by
  decide +kernel

/-- CREDIT_ACCOUNT of more than the limit stops at it and says so. -/
theorem test_creditAccount :
    response (after (.creditAccount (record 8 (le 2 7 ++ [0, 0] ++ le 3 16777215))) club) = (1, [255, 255, 255, 1]) := by
  decide +kernel

/-- A command written by hand into the command area and started by GO: READ_ACCOUNT of account 7. -/
theorem test_goCollision :
    (response (after .goCollision (after (.commandAreaWrite 0 [23, 0, 4, 0, 7, 0, 0, 0]) club))).1 = 1 ∧
    after .goCollision (after (.commandAreaWrite 0 [23, 0, 4, 0, 7, 0, 0, 0]) club) =
      after (.readAccount (record 4 [7, 0])) club := by decide +kernel

/-- An undefined code is refused with BAD_FIELD. -/
theorem test_undefinedCode : response (after (.undefinedCommandCode 2 (record 0 [])) club) = (21, []) := by decide +kernel

/-- The club with the phase BUSY. -/
def engaged : State := { club with controlPort := { club.controlPort with phase := .busy } }

/-- The part in the health test of a cold start. -/
def starting : State := { State.reset with retentionUnit := { State.reset.retentionUnit with reset := .cold } }

theorem test_StepTakesTheFrontOfTheQueue : (awaiting .minuteTick club).pending = .minuteTick :: [] := rfl

theorem test_NothingIsTakenDuringAReset :
    down starting = true ∧ goesOnInReset .pageBegin = false ∧ (264 ≠ 264 ∨ 3 ≠ 4) ∧
    down { club with retentionUnit := { club.retentionUnit with supply := .lost } } = true := by decide +kernel

theorem test_BusyPartIgnoresGoAndSetsCollision :
    down engaged = false ∧ engaged.controlPort.phase = .busy ∧ ([1] : List Byte) ≠ [] ∧ 127 < 128 ∧
    hostCommand (.identify (record 0 [])) = some (1, 0, record 0 []) := by decide +kernel

theorem test_WindowTakesWritesAndGo :
    (ready club ∧ ([5, 6, 7] : List Byte) ≠ [] ∧ 125 + ([5, 6, 7] : List Byte).length ≤ 128) ∧
    (([1, 0, 0, 0] : List Byte).length = 4 ∧ (([1, 0, 0, 0] : List Byte).headD 0).getLsbD 0 = true) ∧
    (([254, 0, 0, 0] : List Byte).length = 4 ∧ (([254, 0, 0, 0] : List Byte).headD 0).getLsbD 0 = false) ∧
    (¬ (253 = 256 ∧ ([1, 0, 0, 0] : List Byte).length = 4) ∧ 253 < 260 ∧ 256 < 253 + ([1, 0, 0, 0] : List Byte).length) ∧
    (hostCommand (.closeJob (record 4 [5])) = some (34, 4, record 4 [5]) ∧ (record 4 [5]).body.length ≤ 124) ∧
    (down club = false ∧ 0 + 128 ≤ 128 ∧ 128 ≤ 128 ∧ 128 + 128 ≤ 256) ∧
    (¬ (255 = 256 ∧ 2 = 4) ∧ ¬ (255 = 264 ∧ 2 = 4) ∧ 255 < 260 ∧ 256 < 255 + 2 ∧ 267 < 268 ∧ 264 < 267 + 1 ∧ 368 ≤ 368) ∧
    (256 < 364 ∧ 364 % 4 = 0 ∧ 364 ≠ 264 ∧ 3 < 4) ∧
    (club.holdUnit.fifo.length ≤ 16384 ∧ club.noticeUnit.fault = none) ∧
    ((faulty club).noticeUnit.fault = some ⟨.keygenFailed, 0, none, none, none⟩ ∧ 0 ≤ 4294967295) := by decide +kernel

theorem test_ControlPortChecksCommands :
    (ready club ∧ hostCommand (.closeJob (record 5 [5])) = some (34, 4, record 5 [5]) ∧
      (record 5 [5]).body.length ≤ 124 ∧ (record 5 [5]).length.toNat ≠ 4) ∧
    (BitVec.toNat (2 : BitVec 16) ∉ definedCodes) ∧
    carries (record 4 [0, 0]) 4 [0, 0] ∧ carries (record 4 [0]) 4 [0] ∧
    (5 ≤ BitVec.toNat (5 : Byte) ∧ carries (record 4 [5]) 4 [5]) ∧
    (48 ≤ BitVec.toNat (48 : Byte) ∧ carries (record 4 [48]) 4 [48]) := by decide +kernel

/-- Records with one field out of its range, at the edge of the range. -/
theorem test_ControlPortChecksCommands_fields :
    (carries (record 16 ([7, 0, 8, 0] ++ packAmounts .zero)) 16 (le 2 7 ++ [8, 0] ++ packAmounts .zero) ∧
      7 < (8 : Byte).toNat ∧ Amounts.passes 16777215 .zero = false) ∧
    (carries (record 16 ([7, 0, 7, 1] ++ packAmounts (.all 1))) 16 (le 2 7 ++ [7, 1] ++ packAmounts (.all 1)) ∧
      Amounts.all 1 ≠ .zero) ∧
    (carries (record 8 [7, 0, 3, 0, 1]) 8 (le 2 7 ++ [3, 0] ++ le 3 1) ∧ 2 < (3 : Byte).toNat) ∧
    (carries (record 4 [7, 0, 8]) 4 (le 2 7 ++ [8])) ∧
    (carries (record 36 [7, 0, 33]) 36 (le 2 7 ++ [33]) ∧ 1 ≤ (7 : Byte).toNat ∧ 32 < (33 : Byte).toNat) ∧
    (carries (record 4 [1, 0, 2]) 4 ([1] ++ le 2 512) ∧ 511 < 512) ∧
    (carries (record 8 [7, 0, 1, 9, 48, 160, 5]) 8 ([7, 0, 1, 9, 48] ++ le 2 1440) ∧ 8 < (9 : Byte).toNat) ∧
    (carries (record 4 [8]) 4 [8]) ∧
    (carries (record 20 (le 2 7 ++ [0] ++ packAmounts ⟨1, 0, 1⟩)) 20
      (le 2 7 ++ [0] ++ packAmounts ⟨1, 0, 1⟩ ++ le 2 0 ++ le 2 0 ++ [0])) ∧
    (carries (record 20 (le 2 7 ++ [1] ++ packAmounts ⟨0, 0, 1⟩ ++ le 2 1440 ++ le 2 15 ++ [1])) 20
      (le 2 7 ++ [1] ++ packAmounts ⟨0, 0, 1⟩ ++ le 2 1440 ++ le 2 15 ++ [1]) ∧ 15 < 16) ∧
    (carries (record 12 [5]) 12 ([5] ++ packAmounts .zero)) ∧
    (carries (record 4 [2]) 4 [2] ∧ carries (record 4 [4, 2]) 4 [4, 2] ∧ 1 < (2 : Byte).toNat) ∧
    (carries (record 20 [17, 1]) 20 ([17, 1] ++ List.replicate 16 0) ∧ 16 < (17 : Byte).toNat) ∧
    (carries (record 36 [47, 7]) 36 [47, 7] ∧ (7 : Byte).toNat < 8) ∧
    (carries (record 4 [47, 1, 0, 16]) 4 ([47, 1] ++ le 2 4096) ∧ 4095 < 4096) ∧
    (carries (record 20 (packNotices ⟨8, 0, 0, 0, 0⟩)) 20 (packNotices ⟨8, 0, 0, 0, 0⟩) ∧
      (8 : BitVec 32).getLsbD 3 = true) := by decide +kernel

/-- A held scan of account 7 with two bands. -/
def kept : KeySlot :=
  { KeySlot.blank with
    state := .held, owner := some 0, key := 5, pages := 1, bands := [0, 3], totalBytes := 46, times := some ⟨0, 10⟩ }

/-- A state with this scan in slot 2, first on the hold list; its bands are in image memory. -/
def archive (x : KeySlot) : State :=
  { club with
    captureUnit := { club.captureUnit with
      descriptors := [(0, ⟨1, 1, 2, 32, 0, 1, some 7⟩), (3, ⟨1, 2, 1, 14, 2, 1, some 8⟩)], extents := [0, 2] }
    holdUnit := { club.holdUnit with
      slots := [(2, x), (5, { kept with bands := [], totalBytes := 0, times := some ⟨0, 12⟩ })], holdList := [2, 5], minute := 3 } }

theorem test_ReadsChangeNothingButClearedCounts :
    (ready club ∧ carries (record 0 []) 0 [] ∧ club.stationUnit.rotation.slots.length = 16) ∧
    (accountIndex club 7 = some 0 ∧ carries (record 4 [7, 0]) 4 (le 2 7) ∧ (heldOf 0 club).length ≤ 48 ∧
      carries (record 4 [0, 7, 0]) 4 ([0] ++ le 2 7) ∧ standby club = false) ∧
    (carries (record 4 [1, 255, 1]) 4 ([1] ++ le 2 511) ∧ 511 < 512 ∧
      Table.wfDefault .blank club.accountUnit.accounts = true ∧ standby (resting club) = true) ∧
    (carries (record 4 [1]) 4 ([1] ++ le 2 0) ∧ 0 ≤ 0 ∧ (account club 0).state ≠ .free) ∧
    (carries (record 4 [7]) 4 [byteOf 7] ∧ 7 < 8) ∧
    (carries (record 4 [5]) 4 [byteOf 5] ∧ jobOfTag (withJob0 flyer) 5 = some (0, flyer)) ∧
    (carries (record 4 [1]) 4 (flag true) ∧ club.sheetLink.sheets.length ≤ 4) ∧
    (carries (record 4 [4, 1]) 4 ([byteOf (stationCode .drum)] ++ flag true) ∧ (station club .drum).queue.length ≤ 2) ∧
    (carries (record 4 [47, 0, 255, 15]) 4 ([byteOf 47, 0] ++ le 2 4095) ∧ 47 < 48 ∧ 4095 < 4096) ∧
    (carries (record 4 [2, 1, 1]) 4 ([byteOf 2, 1] ++ le 2 1) ∧ (keySlot (archive kept) 2).bands[1]? = some 3 ∧
      descriptor (archive kept) 3 = some ⟨1, 2, 1, 14, 2, 1, some 8⟩) ∧
    (carries (record 4 [2, 1, 2]) 4 ([byteOf 2, 1] ++ le 2 2) ∧ (keySlot (archive kept) 2).bands.length ≤ 2) := by decide +kernel

/-! ### Accounts and groups -/

theorem test_AddAccountFillsLowestFreeEntry :
    readyInRun club ∧
    carries (record 16 (le 2 65535 ++ [7] ++ flag false ++ packAmounts (.all 16777215))) 16
      (le 2 65535 ++ [byteOf 7] ++ flag false ++ packAmounts (.all 16777215)) ∧
    1 ≤ 65535 ∧ 65535 ≤ 65535 ∧ 7 < 8 ∧ (Amounts.all 16777215).passes 16777215 = false ∧
    (false = true → Amounts.all 16777215 = .zero) ∧ accountIndex club 65535 = none ∧
    1 < 512 ∧ (account club 1).state = .free ∧ (∀ j, j < 1 → (account club j).state ≠ .free) := by decide +kernel

theorem test_inBounds_atTheLimit : (account (withMember (fun a => { a with balance := .all 16777215 }) club) 0).inBounds := by
  unfold Account.inBounds; decide +kernel

theorem test_CreditAccountMovesOneBalance :
    readyInRun club ∧ accountIndex club 7 = some 0 ∧ (account club 0).state ≠ .retiring ∧
    (account club 0).unlimited = false ∧ (account club 0).inBounds ∧
    carries (record 8 (le 2 7 ++ [0, 0] ++ le 3 16777215)) 8 (le 2 7 ++ [classByte .mono] ++ flag false ++ le 3 16777215) ∧
    (carries (record 8 (le 2 7 ++ [2, 1] ++ le 3 20)) 8 (le 2 7 ++ [classByte .scan] ++ flag true ++ le 3 20) ∧
      20 ≤ (account club 0).balance.get .scan) ∧
    (carries (record 8 (le 2 7 ++ [2, 1] ++ le 3 21)) 8 (le 2 7 ++ [classByte .scan] ++ flag true ++ le 3 21) ∧
      (account club 0).balance.get .scan < 21) := by
  unfold Account.inBounds; decide +kernel

/-- The club with its account locked out. -/
def lockedClub : State := withMember (fun a => { a with state := .suspended .lockout, failed := 3 }) club

/-- The same state with the account RETIRING. -/
def retiring (s : State) : State := withMember (fun a => { a with state := .retiring }) s

/-- The state with this walk in flight. -/
def walkedBy (w : Walk) (s : State) : State := { s with retentionUnit := { s.retentionUnit with walk := some w } }

/-- The club with every entry of the account table taken. -/
def packed : State :=
  { club with accountUnit := { club.accountUnit with accounts := (List.range 512).map fun i => (i, member) } }

theorem account_packed {j : Nat} (h : j < 512) : account packed j = member := by
  have := find_mapRange (d := member) 512 0 j (Nat.zero_le _) (by omega)
  rw [← List.range_eq_range'] at this
  show Table.read _ _ _ = _
  simp only [packed, Table.read, this, Option.getD_some]

/-- Every entry taken, an entry that is RETIRING, and STANDBY. -/
theorem test_AddAccountFillsLowestFreeEntry_refusals :
    (∀ j, j < 512 → (account packed j).state ≠ .free) ∧
    (ready packed ∧ standby packed = false ∧ accountIndex packed 9 = none) ∧
    (∃ j, (account (retiring club) j).state ≠ .free ∧ (account (retiring club) j).number = some 7) ∧
    (ready (retiring club) ∧ standby (retiring club) = false ∧ standby (resting club) = true) ∧
    (carries (record 16 (le 2 9 ++ [0, 1])) 16 (le 2 9 ++ [byteOf 0] ++ flag true ++ packAmounts .zero) ∧
      Amounts.zero.passes 16777215 = false) :=
  ⟨fun j h => by rw [account_packed h]; decide, by decide +kernel, ⟨0, by decide +kernel⟩, by decide +kernel,
    by decide +kernel⟩

/-- An unlimited account, and a RETIRING one. -/
theorem test_CreditAccountMovesOneBalance_refusals :
    (readyInRun (withMember (fun a => { a with unlimited := true }) club) ∧
      accountIndex (withMember (fun a => { a with unlimited := true }) club) 7 = some 0 ∧
      (account (withMember (fun a => { a with unlimited := true }) club) 0).state ≠ .retiring ∧
      (account (withMember (fun a => { a with unlimited := true }) club) 0).unlimited = true) ∧
    (readyInRun (retiring club) ∧ accountIndex (retiring club) 7 = some 0 ∧
      (account (retiring club) 0).state = .retiring) := by decide +kernel

/-- A change of what the image holds while a walk writes the entry, and after it has written it. -/
theorem test_onlyAccount_walk :
    sameForImage (account club 0) { account club 0 with balance := .zero } = false ∧
    sameForImage (account club 0) { account club 0 with failed := 0 } = true ∧
    (walkedBy ⟨.account 1, none, false, false⟩ club).retentionUnit.walk.map (Walk.accountChanged 0) =
      some ⟨.account 1, none, false, true⟩ ∧
    (walkedBy ⟨.account 0, some (.groups []), false, false⟩ club).retentionUnit.walk.map (Walk.accountChanged 0) =
      some ⟨.account 0, some (.groups []), true, false⟩ ∧
    (after (.creditAccount (record 8 (le 2 7 ++ [0, 0] ++ le 3 1))) (walkedBy ⟨.account 1, none, false, false⟩ club)
      ).retentionUnit.walk = some ⟨.account 1, none, false, true⟩ := by decide +kernel

theorem test_AccountFieldCommandsReplaceTheirFields :
    (readyInRun lockedClub ∧ accountIndex lockedClub 7 = some 0 ∧ (account lockedClub 0).state ≠ .retiring ∧
      (account lockedClub 0).state ≠ .active ∧ (account lockedClub 0).state ≠ .free) ∧
    carries (record 4 [7, 0, 7]) 4 (le 2 7 ++ [byteOf 7]) ∧
    carries (record 36 ([7, 0, 32] ++ List.replicate 32 9)) 36
      (le 2 7 ++ [byteOf (List.replicate 32 (9 : Byte)).length] ++ List.replicate 32 9) ∧
    carries (record 36 [7, 0]) 36 (le 2 7 ++ [0]) ∧ carries (record 4 [7, 0]) 4 (le 2 7) ∧
    (ready (resting club) ∧ standby (resting club) = true) ∧
    (ready State.reset ∧ standby State.reset = false ∧ accountIndex State.reset 7 = none) := by decide +kernel

/-- The records of the refused commands, a RETIRING account, and a RESUME_ACCOUNT of an ACTIVE one. -/
theorem test_AccountFieldCommandsReplaceTheirFields_refusals :
    (ready club ∧ standby club = false ∧ standby (resting club) = true ∧ accountIndex club 9 = none ∧
      accountIndex club 7 = some 0 ∧ (account club 0).state = .active) ∧
    (ready (retiring club) ∧ accountIndex (retiring club) 7 = some 0 ∧
      (account (retiring club) 0).state = .retiring) ∧
    (carries (record 8 (le 2 7 ++ [2, 1] ++ le 3 16777215)) 8
      (le 2 7 ++ [classByte .scan] ++ flag true ++ le 3 16777215)) ∧
    carries (record 4 [7, 0, 7]) 4 (le 2 7 ++ [byteOf 7]) ∧ carries (record 36 [7, 0, 8]) 36 (le 2 7 ++ [byteOf 8]) ∧
    carries (record 4 [7, 0]) 4 (le 2 7) := by decide +kernel

/-- The refusals of SUSPEND_ACCOUNT and RETIRE_ACCOUNT. -/
theorem test_SuspensionAndRetirementEndTheWork_refusals :
    (readyInRun (retiring club) ∧ carries (record 4 [7, 0]) 4 (le 2 7) ∧ accountIndex (retiring club) 7 = some 0 ∧
      (account (retiring club) 0).state = .retiring) ∧
    (readyInRun lockedClub ∧ accountIndex lockedClub 7 = some 0 ∧ (account lockedClub 0).state = .suspended .lockout) := by
  decide +kernel

/-- The scan of slot 2 in release. -/
def inRelease (due : Bool) : KeySlot := { kept with state := .releasing, release := some ⟨1, 4, 10⟩, expiryDue := due }

theorem test_SuspensionAndRetirementEndTheWork :
    (readyInRun club ∧ carries (record 4 [7, 0]) 4 (le 2 7) ∧ accountIndex club 7 = some 0 ∧
      (account club 0).state = .active ∧ releasingSlot club = none ∧ slotsOwned 0 club = []) ∧
    (readyInRun (archive (inRelease false)) ∧ accountIndex (archive (inRelease false)) 7 = some 0 ∧
      (account (archive (inRelease false)) 0).state = .active ∧ releasingSlot (archive (inRelease false)) = some 2 ∧
      (keySlot (archive (inRelease false)) 2).owner = some 0 ∧ (keySlot (archive (inRelease false)) 2).expiryDue = false) ∧
    (readyInRun (archive (inRelease true)) ∧ releasingSlot (archive (inRelease true)) = some 2 ∧
      (keySlot (archive (inRelease true)) 2).state = .releasing ∧
      (keySlot (archive (inRelease true)) 2).expiryDue = true) ∧
    (Table.wfDefault .blank (archive (inRelease true)).holdUnit.slots = true ∧
      (archive (inRelease true)).holdUnit.holdList.Nodup ∧ slotsOwned 0 (archive (inRelease true)) = [2, 5] ∧
      (∀ n ∈ [2, 5], (keySlot (archive (inRelease true)) n).state = .held ∨
        (keySlot (archive (inRelease true)) n).state = .releasing)) ∧
    (slotsOwned 0 (archive kept) = [2, 5] ∧ (∀ n ∈ [2, 5], (keySlot (archive kept) n).state = .held)) := by
  decide +kernel

/-- SUSPEND_ACCOUNT asks for the stop of the account's job, and the stop request stops it. -/
theorem test_suspendAccount :
    (after (.suspendAccount (record 4 [7, 0])) (withJob0 flyer)).jobUnit.stopRequests = [(5, .accountSuspended)] ∧
    (Table.find (after (.stopRequest 5) (after (.suspendAccount (record 4 [7, 0])) (withJob0 flyer))).jobUnit.jobs 0) =
      some { flyer with state := .stopped, stopReason := some .accountSuspended } := by decide +kernel

theorem test_SetGroupPolicyReplacesOneEntry :
    readyInRun club ∧
    carries (record 8 [7, 0, 1, 8, 48, 160, 5]) 8
      ([byteOf 7] ++ flag false ++ flag true ++ [byteOf 8, byteOf 48] ++ le 2 1440) ∧
    7 < 8 ∧ 1 ≤ 8 ∧ 8 ≤ 8 ∧ 48 ≤ 48 ∧ 1 ≤ 1440 ∧ 1440 ≤ 1440 := by decide +kernel

/-- STANDBY, and walks that write the table and that have left it. -/
theorem test_SetGroupPolicyReplacesOneEntry_walk :
    (ready (resting club) ∧ standby (resting club) = true ∧ standby club = false) ∧
    (walkedBy ⟨.groups, some (.groups []), false, false⟩ club).retentionUnit.walk.map Walk.groupsChanged =
      some ⟨.groups, some (.groups []), true, false⟩ ∧
    (after (.setGroupPolicy (record 8 [7, 0, 1, 8, 48, 160, 5])) (walkedBy ⟨.account 1, none, false, false⟩ club)
      ).retentionUnit.walk = some ⟨.account 1, none, false, true⟩ := by decide +kernel


/-! ### Jobs and reservations -/

/-- The body of an OPEN_JOB of account 7. -/
def opening (kind : Nat) (units : Amounts) (hold pixels bytes : Nat) : List Byte :=
  le 2 7 ++ [byteOf kind] ++ packAmounts units ++ le 2 hold ++ le 2 pixels ++ [byteOf bytes]

/-- OPEN_JOB, a sheet asked for and delivered, and CLOSE_JOB: what the job and the account pay. -/
theorem test_aPrintJob :
    (Table.find (after (.closeJob (record 4 [1])) (after (.delivered { report500 3 with tag := 1 })
      (after (.feedAsk { ask500 with tag := 1, size := 2 }) (after (.openJob (record 20 (opening 0 ⟨10, 0, 0⟩ 0 0 0)))
        (withK seated))))).jobUnit.jobs 0).map (fun j => (j.state, j.charged, j.delivered)) =
      some (.settled, ⟨2, 0, 0⟩, 1) ∧
    (account (after (.closeJob (record 4 [1])) (after (.delivered { report500 3 with tag := 1 })
      (after (.feedAsk { ask500 with tag := 1, size := 2 }) (after (.openJob (record 20 (opening 0 ⟨10, 0, 0⟩ 0 0 0)))
        (withK seated))))) 0).balance = ⟨98, 50, 20⟩ := by decide +kernel

theorem test_BalanceRequestsMoveUnits :
    { member with unlimited := true }.unlimited = true ∧ member.unlimited = false ∧
    16777215 < member.balance.get .mono + (Amounts.all 16777215).get .mono ∧
    4294967295 < member.lifetime.get .scan + (Amounts.all 1).get .scan := by decide

theorem test_TagFollowsTheLastAssigned :
    255 ≤ 255 ∧ (∃ u, 1 ≤ u ∧ u ≤ 255 ∧ (fun n => decide (n = 1)) u = false) ∧
    nextTag (fun n => decide (n = 1)) 255 255 = 2 := ⟨by decide, ⟨2, by decide⟩, by decide +kernel⟩

theorem test_OpenPrintJobFillsTheLowestEmptyEntry :
    readyInRun (withJob0 flyer) ∧
    carries (record 20 (opening 0 ⟨16777215, 3, 0⟩ 0 0 0)) 20
      (le 2 7 ++ [0] ++ packAmounts ⟨16777215, 3, 0⟩ ++ le 2 0 ++ le 2 0 ++ [0]) ∧
    (Amounts.passes 16777215 ⟨16777215, 3, 0⟩ = false ∧ (⟨16777215, 3, 0⟩ : Amounts) ≠ .zero ∧
      accountIndex (withJob0 flyer) 7 = some 0 ∧ (account (withJob0 flyer) 0).state = .active ∧
      faulted (withJob0 flyer) = false ∧ Table.find (withJob0 flyer).jobUnit.jobs 1 = none ∧
      (∀ k, k < 1 → (Table.find (withJob0 flyer).jobUnit.jobs k).isSome) ∧
      (account (withJob0 flyer) 0).openJobs <
        (groupPolicy (withJob0 flyer) (account (withJob0 flyer) 0).group).maxOpenJobs ∧
      (groupPolicy (withJob0 flyer) (account (withJob0 flyer) 0).group).colourAllowed = true ∧
      (account (withJob0 flyer) 0).grant ⟨16777215, 3, 0⟩ = ⟨100, 3, 0⟩ ∧ (⟨100, 3, 0⟩ : Amounts) ≠ .zero ∧
      nextTag (fun t => (jobOfTag (withJob0 flyer) t).isSome) 255 (withJob0 flyer).jobUnit.lastTag = 1) := by decide +kernel

/-- The club after an OPEN_JOB of a SCAN job. -/
def opened : State := after (.openJob (record 20 (opening 1 ⟨0, 0, 9⟩ 1440 7680 3))) club

theorem test_OpenScanJobWaitsForItsKey :
    (readyInRun club ∧
      carries (record 20 (opening 1 ⟨0, 0, 9⟩ 1440 7680 3)) 20
        (le 2 7 ++ [1] ++ packAmounts ⟨0, 0, 9⟩ ++ le 2 1440 ++ le 2 7680 ++ [byteOf 3]) ∧
      (accountIndex club 7 = some 0 ∧ (account club 0).state = .active ∧ faulted club = false ∧
        Table.find club.jobUnit.jobs 0 = none ∧
        (account club 0).openJobs < (groupPolicy club (account club 0).group).maxOpenJobs ∧
        (groupPolicy club (account club 0).group).scanAllowed = true ∧
        (account club 0).heldScans < (groupPolicy club (account club 0).group).maxHeldScans ∧
        (keySlot club 47).state = .empty ∧ club.randomSource.health = .healthy ∧ club.captureUnit.phase = .unbound ∧
        (account club 0).grant ⟨0, 0, 9⟩ = ⟨0, 0, 9⟩ ∧ (⟨0, 0, 9⟩ : Amounts) ≠ .zero ∧
        nextTag (fun t => (jobOfTag club t).isSome) 255 club.jobUnit.lastTag = 1)) ∧
    (down opened = false ∧ opened.randomSource.draws = .key :: [] ∧ opened.controlPort.opening = some 1 ∧
      (jobOfTag opened 1).map (·.1) = some 0 ∧ ((jobOfTag opened 1).bind (·.2.owner)) = some 0 ∧
      (keySlot opened 0).state = .empty) ∧
    (.key 77 ∉ opened.randomSource.returned) ∧ (.key 77 ∈ (after (.keyDraw 77) opened).randomSource.returned) := by
  decide +kernel

/-- The key drawn gives OPEN_JOB its answer: tag 1, 9 SCAN units, slot 0. -/
theorem test_keyDraw :
    response (after (.keyDraw 77) opened) = (1, [1, 0, 0, 0, 0, 0, 0, 9, 0, 0, 1, 0]) ∧
    (keySlot (after (.keyDraw 77) opened) 0).key = 77 := by decide +kernel

/-- A key that an earlier draw returned is no draw's end. -/
theorem test_keyDraw_again :
    after (.keyDraw 77) { opened with randomSource := { opened.randomSource with returned := [.key 77] } } =
      { opened with randomSource := { opened.randomSource with returned := [.key 77] } } := by decide +kernel

/-- The fields of a PRINT and of a SCAN request of account 7. -/
def printFields : OpenFields := ⟨7, .print, ⟨5, 5, 0⟩, 0, 0, 0⟩
def scanFields : OpenFields := ⟨7, .scan, ⟨0, 0, 9⟩, 1440, 7680, 3⟩

theorem test_OpenJobRefusesInOrder :
    (readyInRun State.reset ∧ printFields.legal = true ∧ printFields.request.passes 16777215 = false ∧
      carries (record 20 (opening 0 ⟨5, 5, 0⟩ 0 0 0)) 20
        (le 2 7 ++ [byteOf printFields.kind.code] ++ packAmounts printFields.request ++ le 2 printFields.hold ++
          le 2 printFields.pixels ++ [byteOf printFields.bytesPerPixel]) ∧ accountIndex State.reset 7 = none) ∧
    (accountIndex lockedClub 7 = some 0 ∧ (account lockedClub 0).state = .suspended .lockout) ∧
    (faulted (faulty club) = true) ∧
    (ready (resting club) ∧ standby (resting club) = true ∧ standby club = false) ∧
    (¬ groupPermits printFields (account (withMember (fun a => { a with openJobs := 4 }) club) 0) (groupPolicy club 2) ∧
      ¬ groupPermits printFields (account club 0) ⟨false, true, 4, 8, 240⟩ ∧
      ¬ groupPermits scanFields (account club 0) ⟨true, false, 4, 8, 240⟩ ∧
      ¬ groupPermits scanFields (account (withMember (fun a => { a with heldScans := 8 }) club) 0)
        (groupPolicy club 2) ∧
      groupPermits printFields (account club 0) (groupPolicy club 2)) ∧
    (scanFields.legal = true ∧ groupPermits scanFields (account club 0) (groupPolicy club 2) ∧
      Table.find club.jobUnit.jobs 31 = none ∧ (keySlot club 47).state = .empty ∧
      (account (withMember (fun a => { a with balance := .zero }) club) 0).grant scanFields.request = .zero) := by
  decide +kernel

/-- A stopped job with room for 5 MONO units. -/
def nearlyFull : Job := { flyer with reserved := ⟨16777210, 5, 0⟩, state := .stopped, stopReason := some .station }

theorem test_ExtendJobAddsItsGrant :
    readyInRun (withJob0 nearlyFull) ∧
    carries (record 12 ([5] ++ packAmounts ⟨200, 1, 0⟩)) 12 ([byteOf 5] ++ packAmounts ⟨200, 1, 0⟩) ∧
    (Amounts.passes 16777215 ⟨200, 1, 0⟩ = false ∧ (⟨200, 1, 0⟩ : Amounts) ≠ .zero ∧
      jobOfTag (withJob0 nearlyFull) 5 = some (0, nearlyFull) ∧ nearlyFull.owner = some 0 ∧
      nearlyFull.state = .stopped ∧ nearlyFull.stopReason ≠ some .accountSuspended ∧
      nearlyFull.stopReason ≠ some .accountRetiring ∧ (account (withJob0 nearlyFull) 0).state = .active ∧
      nearlyFull.kind = .print ∧ (groupPolicy (withJob0 nearlyFull) 2).colourAllowed = true ∧
      ((account (withJob0 nearlyFull) 0).grant ⟨200, 1, 0⟩).lesser ((Amounts.all 16777215).sub nearlyFull.reserved) =
        ⟨5, 1, 0⟩ ∧ (⟨5, 1, 0⟩ : Amounts) ≠ .zero) ∧
    (ready (resting club) ∧ standby (resting club) = true ∧ jobOfTag club 5 = none) ∧
    (jobOfTag (withJob0 { flyer with state := .settled }) 5 = some (0, { flyer with state := .settled })) ∧
    ({ nearlyFull with stopReason := some .accountRetiring }.stopReason = some StopReason.accountRetiring) ∧
    ((account (putJob 0 flyer lockedClub) 0).state = .suspended .lockout) ∧
    (⟨0, 0, 1⟩ : Amounts).scan ≠ 0 ∧ (GroupPolicy.mk false true 4 8 240).colourAllowed = false ∧
    ((account (withJob0 nearlyFull) 0).grant ⟨0, 0, 1⟩).lesser
      ((Amounts.all 16777215).sub { nearlyFull with reserved := Amounts.all 16777215 }.reserved) = .zero := by decide +kernel

theorem test_EndingAPrintJob :
    (readyInRun (withJob0 flyer) ∧ carries (record 4 [5]) 4 [byteOf 5] ∧ jobOfTag (withJob0 flyer) 5 = some (0, flyer) ∧
      Table.find (withJob0 flyer).jobUnit.jobs 0 = some flyer ∧ flyer.kind = .print ∧ flyer.owner = some 0 ∧
      flyer.state = .ready ∧ flyer.committed = .zero ∧
      ¬ ((account (withJob0 flyer) 0).state = .retiring ∧ (account (withJob0 flyer) 0).openJobs ≤ 1)) ∧
    (readyInRun (retiring (withJob0 flyer)) ∧ jobOfTag (retiring (withJob0 flyer)) 5 = some (0, flyer) ∧
      (account (retiring (withJob0 flyer)) 0).state = .retiring ∧ (account (retiring (withJob0 flyer)) 0).openJobs = 1) ∧
    (readyInRun (printing flyerOut seated leaf) ∧ jobOfTag (printing flyerOut seated leaf) 5 = some (0, flyerOut) ∧
      flyerOut.state = .active ∧ flyerOut.committed ≠ .zero) ∧
    (jobOfTag (printing { flyerOut with state := .closing, endKind := some .close } seated leaf) 5 =
        some (0, { flyerOut with state := .closing, endKind := some .close })) ∧
    (ready (resting club) ∧ standby (resting club) = true ∧ jobOfTag club 5 = none ∧ standby club = false) ∧
    (jobOfTag (withJob0 { flyer with state := .settled }) 5 = some (0, { flyer with state := .settled })) := by decide +kernel

/-- The scan job with a page captured, and its slot and port. -/
def scanned : Job := { survey with pagesCaptured := 1, holdRequest := 7 }

/-- The club capturing into slot 2 for a job in entry 0, the port in a phase with a page. -/
def capturingIn (phase : CapturePhase) (j : Job) (page : Option Page) (store : Option BandStore) (owned : List Nat) : State :=
  { putSlot 2 { KeySlot.blank with state := .capturing, owner := some 0, jobTag := some 6, key := 5, pages := 1,
                                   bands := [0, 3], totalBytes := 46 } (withJob0 j) with
    captureUnit :=
      { phase := phase, boundTag := some 6, boundSlot := some 2, format := some ⟨16, 1⟩, page := page, discarded := 65535
        filling := store, handedOff := [⟨3, [1, 2, 3, 4]⟩], heldBack := []
        descriptors := [(0, ⟨1, 1, 2, 32, 0, 1, some 7⟩), (3, ⟨2, 1, 1, 4, 2, 1, none⟩)], extents := owned, status := [] } }

/-- The scan job with its second page begun. -/
def surveyOut : Job := { survey with state := .active, committed := ⟨0, 0, 1⟩, pagesCaptured := 1 }

/-- A page of so many lines in RECEIVING, with this store filling. -/
def receiving (lines : Nat) (store : Option BandStore) (owned : List Nat) : State :=
  capturingIn .receiving surveyOut (some ⟨2, lines, 1⟩) store owned

/-- The same, with its page in capture and the end asked for. -/
def surveyEnding : Job := { surveyOut with state := .closing, endKind := some .close }

theorem test_ClosingAScanJobHoldsItsScan :
    readyInRun (capturingIn .waiting scanned none none [0, 2]) ∧ carries (record 4 [6]) 4 [byteOf 6] ∧
    (jobOfTag (capturingIn .waiting scanned none none [0, 2]) 6 = some (0, scanned) ∧
      Table.find (capturingIn .waiting scanned none none [0, 2]).jobUnit.jobs 0 = some scanned ∧ scanned.kind = .scan ∧
      scanned.owner = some 0 ∧ scanned.state = .ready ∧ scanned.committed = .zero ∧ 0 < scanned.pagesCaptured ∧
      scanned.slot = some 2 ∧ (keySlot (capturingIn .waiting scanned none none [0, 2]) 2).state = .capturing ∧
      (account (capturingIn .waiting scanned none none [0, 2]) 0).state ≠ .retiring ∧
      7 = (if scanned.holdRequest = 0 then (groupPolicy club 2).maxHoldMinutes
        else min (groupPolicy club 2).maxHoldMinutes scanned.holdRequest)) ∧
    (survey.pagesCaptured = 0 ∧ survey.committed = .zero ∧
      jobOfTag (capturingIn .waiting survey none none [0, 2]) 6 = some (0, survey)) ∧
    (pageIn 2 0 surveyOut ⟨2, 5, 1⟩ (receiving 5 none [0, 2]) ∧ surveyOut.committed = ⟨0, 0, 1⟩ ∧
      surveyOut.state = .active ∧ (keySlot (receiving 5 none [0, 2]) 2).owner = some 0) ∧
    closing 2 0 0 surveyEnding ⟨2, 5, 1⟩ (capturingIn .receiving surveyEnding (some ⟨2, 5, 1⟩) none [0, 2]) ∧
    ((keySlot (retiring (withJob0 survey)) 2).state ≠ .capturing ∧ (account (retiring (withJob0 survey)) 0).state = .retiring ∧
      (account (retiring (withJob0 survey)) 0).openJobs = 1) := by decide +kernel

/-- ABORT_JOB with a page in capture drops it, erases the slot, and tells the scanner. -/
theorem test_abortJob_scan :
    keySlot (after (.abortJob (record 4 [6])) (receiving 5 (some ⟨0, []⟩) [0, 2])) 2 = KeySlot.blank ∧
    (after (.abortJob (record 4 [6])) (receiving 5 (some ⟨0, []⟩) [0, 2])).captureUnit.status = [[3, 1]] ∧
    (after (.abortJob (record 4 [6])) (receiving 5 (some ⟨0, []⟩) [0, 2])).captureUnit.extents = [] := by decide +kernel

/-- Retirement with the slot CAPTURING, with no page, and with one of a job CLOSING. -/
theorem test_SuspensionAndRetirementEndTheWork_capturing :
    (readyInRun (capturingIn .waiting survey none none [0, 2]) ∧
      slotsOwned 0 (capturingIn .waiting survey none none [0, 2]) = [2] ∧
      (capturingIn .waiting survey none none [0, 2]).captureUnit.page = none ∧
      (account (capturingIn .waiting survey none none [0, 2]) 0).openJobs ≠ 0) ∧
    pageIn 2 0 surveyOut ⟨2, 5, 1⟩ (receiving 5 none [0, 2]) ∧ slotsOwned 0 (receiving 5 none [0, 2]) = [2] ∧
    closing 2 0 0 surveyEnding ⟨2, 5, 1⟩ (capturingIn .receiving surveyEnding (some ⟨2, 5, 1⟩) none [0, 2]) := by
  decide +kernel

/-- CLOSE_JOB of the scan holds it for 7 minutes. -/
theorem test_closeJob_scan :
    (keySlot (after (.closeJob (record 4 [6])) (capturingIn .waiting scanned none none [0, 2])) 2).times = some ⟨0, 7⟩ ∧
    (after (.closeJob (record 4 [6])) (capturingIn .waiting scanned none none [0, 2])).holdUnit.holdList = [2] := by
  decide +kernel

theorem test_DismissJobEmptiesASettledEntry :
    (ready club ∧ 1 ≤ 255 ∧ 255 ≤ 255 ∧ (record 5 [255]).length.toNat ≠ 4 ∧ (record 5 [255]).body.length ≤ 124) ∧
    (ready (resting club) ∧ carries (record 4 [5]) 4 [byteOf 5] ∧ standby (resting club) = true) ∧
    (standby club = false ∧ jobOfTag club 5 = none) ∧
    (jobOfTag (withJob0 flyer) 5 = some (0, flyer) ∧ flyer.state ≠ .settled) ∧
    (jobOfTag (withJob0 { flyer with state := .settled }) 5 = some (0, { flyer with state := .settled })) := by decide +kernel

theorem test_StopRequestStopsARunningJob :
    down (withJob0 flyer) = false ∧
    { (withJob0 flyer).jobUnit with stopRequests := [(6, .station), (5, .accountRetiring), (5, .station)] }.stopRequests =
      [(6, StopReason.station)] ++ ((5 : Byte).toNat, .accountRetiring) :: [(5, .station)] ∧
    (∀ e ∈ [(6, StopReason.station)], e.1 ≠ (5 : Byte).toNat) ∧
    (∃ e ∈ (withJob0 flyer).jobUnit.jobs, e.2.tag = (5 : Byte).toNat ∧ (e.2.state = .ready ∨ e.2.state = .active)) := by
  decide +kernel

/-! ### The sheet link -/

theorem test_RepeatedAskIsAnsweredAgain :
    down (printing flyerOut seated leaf) = false ∧ linkIdle (printing flyerOut seated leaf) ∧ feedAskLegal ask500 = true ∧
    sheetAt (printing flyerOut seated leaf) ask500.sheet = some leaf ∧ leaf.tag = ask500.tag.toNat ∧
    sheetAt club ask500.sheet = none := by decide +kernel

theorem test_ClashingAskIsHalted :
    down (printing flyerOut seated { leaf with tag := 9 }) = false ∧ linkIdle (printing flyerOut seated { leaf with tag := 9 }) ∧ feedAskLegal ask500 = true ∧
    sheetAt (printing flyerOut seated { leaf with tag := 9 }) ask500.sheet = some { leaf with tag := 9 } ∧
    ({ leaf with tag := 9 } : Sheet).tag ≠ ask500.tag.toNat := by decide +kernel

/-- A printing state without its sheet. -/
def idlePrinter (j : Job) (x : StationRecord) : State := putStation .k x (withJob0 j)

theorem test_GrantedAskEntersThePaperPath :
    (feedAskLegal ⟨500, 5, 2, 2, 1, 0, 31⟩ = true ∧ (2 : Byte) = 2 ∧ (1 : Byte) ≠ 0) ∧
    (down (idlePrinter flyer seated) = false ∧ linkIdle (idlePrinter flyer seated) ∧ feedAskLegal ask500 = true ∧
      sheetAt (idlePrinter flyer seated) ask500.sheet = none ∧
      jobOfTag (idlePrinter flyer seated) ask500.tag.toNat = some (0, flyer) ∧ flyer.state = .ready ∧
      flyer.kind = .print ∧ flyer.owner = some 0 ∧ (account (idlePrinter flyer seated) 0).state = .active ∧
      standby (idlePrinter flyer seated) = false ∧ (idlePrinter flyer seated).sheetLink.sheets.length < 4 ∧
      (askNeeds ask500).mono ≤ flyer.reserved.mono - flyer.charged.mono - flyer.committed.mono ∧
      (askNeeds ask500).colour ≤ flyer.reserved.colour - flyer.charged.colour - flyer.committed.colour ∧
      (askNeeds ask500).colour = 0) ∧
    (∀ st, (stationsOf ask500.mask).get st = true → (station (idlePrinter flyer seated) st).state = .genuine) :=
  ⟨by decide +kernel, by decide +kernel, everyStation (by decide +kernel)⟩

theorem test_RefusedAskGivesTheFirstReason :
    ((down club = false ∧ linkIdle club ∧ sheetAt club ask500.sheet = none ∧ jobOfTag club ask500.tag.toNat = none) ∧
    (jobOfTag (withJob0 { flyer with state := .closing }) ask500.tag.toNat = some (0, { flyer with state := .closing })) ∧
    (jobOfTag (withJob0 nearlyFull) ask500.tag.toNat = some (0, nearlyFull) ∧ nearlyFull.state = .stopped) ∧
    (jobOfTag (retiring (withJob0 flyer)) ask500.tag.toNat = some (0, flyer) ∧
      (account (retiring (withJob0 flyer)) 0).state = .retiring) ∧
    ((stationsOf ask500.mask).get .k = true ∧
      (station (idlePrinter flyer { seated with state := .exhausted }) .k).state.lost = true) ∧
    (standby (resting (idlePrinter flyer seated)) = true) ∧
    (4 ≤ { (idlePrinter flyer seated).sheetLink with sheets := [(1, leaf), (2, leaf), (3, leaf), (4, leaf)] }.sheets.length) ∧
    ((station (idlePrinter flyer { seated with state := .challenging }) .k).state = .challenging) ∧
    (({ flyer with charged := flyer.reserved } : Job).reserved.mono - ({ flyer with charged := flyer.reserved } : Job).charged.mono
      - flyer.committed.mono < (askNeeds ask500).mono) ∧
    (0 < (askNeeds { ask500 with class1 := 1 }).colour ∧
      (askNeeds { ask500 with class1 := 1 }).colour ≤ flyer.reserved.colour - flyer.charged.colour - flyer.committed.colour ∧
      (GroupPolicy.mk false true 4 8 240).colourAllowed = false)) ∧
    (∀ st, (stationsOf ask500.mask).get st = true → (station (idlePrinter flyer seated) st).state.lost = false) :=
  ⟨by decide +kernel, everyStation (by decide +kernel)⟩

/-- The same job CLOSING. -/
def flyerEnding : Job := { flyerOut with state := .closing, endKind := some .close }

theorem test_ReportResolvesItsSheet :
    (down (printing flyerOut seated leaf) = false ∧ linkIdle (printing flyerOut seated leaf) ∧ reportLegal (report500 0) = true ∧
      sheetAt (printing flyerOut seated leaf) (report500 0).sheet = some leaf ∧ leaf.tag = (report500 0).tag.toNat ∧
      jobOfTag (printing flyerOut seated leaf) leaf.tag = some (0, flyerOut) ∧ flyerOut.owner = some 0 ∧
      ¬ (flyerOut.state = .closing ∧ flyerOut.committed.sub leaf.amounts = .zero) ∧
      (printing flyerOut seated leaf).stationUnit.rotation.counter + 1 <
        2 * (printing flyerOut seated leaf).stationUnit.rotation.interval) ∧
    (reportLegal (report500 1000) = true ∧ ((report500 1000).doses1.get .k).toNat = 1000 ∧ jobOfTag (printing flyerEnding seated leaf) leaf.tag = some (0, flyerEnding) ∧
      flyerEnding.kind = .print ∧ flyerEnding.state = .closing ∧ flyerEnding.committed.sub leaf.amounts = .zero ∧
      (account (printing flyerEnding seated leaf) 0).state ≠ .retiring) ∧
    (∀ st, ((report500 0).doses1.get st).toNat = 0 ∧ (leaf.sides = 2 → ((report500 0).doses2.get st).toNat = 0)) :=
  ⟨by decide +kernel, by decide +kernel, everyStation (by decide +kernel)⟩

/-- The sheet whose resolution settles its job: JAMMED imaged or DELIVERED, with no dose and with one, of an owner
that stays and of a RETIRING one that is freed. -/
theorem test_ReportResolvesItsSheet_settling :
    (down (printing flyerEnding seated leaf) = false ∧ linkIdle (printing flyerEnding seated leaf) ∧ reportLegal (report500 0) = true ∧
      sheetAt (printing flyerEnding seated leaf) (report500 0).sheet = some leaf ∧ leaf.tag = (report500 0).tag.toNat ∧
      jobOfTag (printing flyerEnding seated leaf) leaf.tag = some (0, flyerEnding) ∧ flyerEnding.owner = some 0 ∧
      flyerEnding.kind = .print ∧ flyerEnding.state = .closing ∧ flyerEnding.committed.sub leaf.amounts = .zero) ∧
    (jobOfTag (retiring (printing flyerEnding seated leaf)) leaf.tag = some (0, flyerEnding) ∧
      (account (retiring (printing flyerEnding seated leaf)) 0).state = .retiring ∧
      (account (retiring (printing flyerEnding seated leaf)) 0).openJobs = 1) ∧
    (account (after (.delivered (report500 3)) (printing flyerEnding seated leaf)) 0).openJobs = 0 ∧
    (account (after (.delivered (report500 3)) (retiring (printing flyerEnding seated leaf))) 0) = Account.free false ∧
    (Table.find (after (.jammed 1 (report500 3)) (printing flyerEnding seated leaf)).jobUnit.jobs 0).map
      (fun j => (j.state, j.charged)) = some (.settled, ⟨1, 0, 0⟩) := by decide +kernel

/-- The sheet whose lapse settles its job. -/
theorem test_LapsedSheetIsChargedWithoutDoses_settling :
    (sheetAt (printing flyerEnding seated leaf) 500 = some leaf ∧ leaf.seconds = 30 ∧
      jobOfTag (printing flyerEnding seated leaf) leaf.tag = some (0, flyerEnding) ∧
      flyerEnding.committed.sub leaf.amounts = .zero) ∧
    (Table.find (after (.sheetLapse 500) (printing flyerEnding seated leaf)).jobUnit.jobs 0).map
      (fun j => (j.state, j.charged, j.lapsed)) = some (.settled, ⟨2, 0, 0⟩, 1) := by decide +kernel

theorem test_LapsedSheetIsChargedWithoutDoses :
    down (printing flyerOut seated leaf) = false ∧ sheetAt (printing flyerOut seated leaf) 500 = some leaf ∧
    leaf.seconds = 30 ∧ ({ leaf with seconds := 29 } : Sheet).seconds < 30 ∧
    jobOfTag (printing flyerOut seated leaf) leaf.tag = some (0, flyerOut) ∧ flyerOut.owner = some 0 ∧
    ¬ (flyerOut.state = .closing ∧ flyerOut.committed.sub leaf.amounts = .zero) := by decide +kernel

theorem test_StrayReportIsOnlyCounted :
    down (printing flyerOut seated { leaf with tag := 9 }) = false ∧ linkIdle (printing flyerOut seated { leaf with tag := 9 }) ∧ reportLegal (report500 1000) = true ∧
    (∀ e, sheetAt (printing flyerOut seated { leaf with tag := 9 }) (report500 1000).sheet = some e →
      e.tag ≠ (report500 1000).tag.toNat) := by
  refine ⟨by decide +kernel, rfl, by decide +kernel, fun e he => ?_⟩
  have h : sheetAt (printing flyerOut seated { leaf with tag := 9 }) (report500 1000).sheet = some { leaf with tag := 9 } := by
    decide +kernel
  rw [h] at he; cases he; decide

/-- A FEED_ASK frame, and the same with its CRC spoiled. -/
theorem test_BadFrameIsCountedAndDiscarded :
    frameGood (frame 1 [0xF4, 1, 5, 1, 1, 0, 0, 1]) = true ∧
    (gathered ((frame 1 [0xF4, 1, 5, 1, 1, 0, 0, 1]).set 12 0) = true ∧
      frameGood ((frame 1 [0xF4, 1, 5, 1, 1, 0, 0, 1]).set 12 0) = false) ∧
    (partlyGathered [0xA5, 1, 8, 0xF4] = true ∧
      gathered ([0xA5, 1, 8, 0xF4] ++ ((frame 1 [0xF4, 1, 5, 1, 1, 0, 0, 1]).set 12 0).drop 4) = true ∧
      frameGood ([0xA5, 1, 8, 0xF4] ++ ((frame 1 [0xF4, 1, 5, 1, 1, 0, 0, 1]).set 12 0).drop 4) = false) ∧
    (gathered (frame 1 [0xF4, 1, 5, 1, 1, 0, 0, 1]) = true ∧ (frame 1 [0xF4, 1, 5, 1, 1, 0, 0, 1]).getD 1 0 = 1 ∧
      gathered (frame 2 (List.replicate 23 1)) = true ∧ frameGood (frame 2 (List.replicate 23 1)) = true ∧
      gathered (frame 3 (List.replicate 24 1)) = true ∧ frameGood (frame 3 (List.replicate 24 1)) = true) ∧
    ({ club.sheetLink with receiver := .gathering [0xA5] }.receiver = .gathering [0xA5] ∧
      partlyGathered [0xA5] = true ∧ club.sheetLink.receiver = .idle ∧ (0 : Byte) ≠ 0xA5) ∧ (31 < (32 : Byte).toNat) ∧ 1000 < ((report500 1001).doses1.get .k).toNat ∧
    1 < (2 : Byte).toNat := by decide +kernel

/-- A frame that comes in pieces, after a byte that starts none, enters the paper path as one that comes whole. -/
theorem test_receiver :
    (after (.badFrame ((frame 1 [0xF4, 1, 5, 1, 1, 0, 0, 1]).drop 4))
      (after (.badFrame (0x00 :: (frame 1 [0xF4, 1, 5, 1, 1, 0, 0, 1]).take 4)) (idlePrinter flyer seated))) =
      after (.feedAsk ask500) (idlePrinter flyer seated) := by decide +kernel

/-- A frame that arrives behind a start byte: its own start byte is gathered as the kind and its kind as the length, so
that its first five bytes end in a bad frame, which is counted; those that follow begin no frame. -/
theorem test_BadFrameIsCountedAndDiscarded_gathering :
    after (.feedAsk ask500) (after (.badFrame [0xA5]) (idlePrinter flyer seated)) =
      badFrame (idlePrinter flyer seated) ∧
    (after (.badFrame [0xA5]) (idlePrinter flyer seated)).sheetLink.receiver = .gathering [0xA5] ∧
    gathered ([0xA5] ++ (feedAskFrame ask500).take 5) = true ∧
    frameGood ([0xA5] ++ (feedAskFrame ask500).take 5) = false ∧ 0xA5 ∉ (feedAskFrame ask500).drop 5 := by decide +kernel

/-- A frame that arrives behind the head of one too long to be complete is gathered with it, and nothing is decided. -/
theorem test_feedAsk_gathered :
    (after (.feedAsk ask500) (after (.badFrame [0xA5, 1, 20]) (idlePrinter flyer seated))).sheetLink =
      { (idlePrinter flyer seated).sheetLink with receiver := .gathering ([0xA5, 1, 20] ++ feedAskFrame ask500) } := by
  decide +kernel

/-- A stop of sheets: the thirtieth second makes sheet 500 lapse, and it is charged. -/
theorem test_sheetLapse :
    (Table.find (after (.sheetLapse 500) (after (.sheetTimerSecond 500)
      (printing flyerOut seated { leaf with seconds := 29 }))).jobUnit.jobs 0).map (fun j => (j.charged, j.lapsed)) =
      some (⟨2, 0, 0⟩, 1) := by decide +kernel


/-! ### Stations -/

/-- An empty station on a shorted line. -/
def shorted : StationRecord := { StationRecord.cold with condition := .shortLow }

theorem test_PresenceStartsAndEndsAStation :
    (standby (resting club) = true) ∧
    (down (withK .cold) = false ∧ standby (withK .cold) = false ∧ station (withK .cold) .k = .cold ∧
      StationRecord.cold.presence = false ∧ StationRecord.cold.state = .empty ∧ StationRecord.cold.condition = .normal) ∧
    (station (withK shorted) .k = shorted ∧ shorted.state = .empty ∧ shorted.condition = .shortLow) ∧
    ({ shorted with state := .lineFault }.presence = false) ∧
    (station (withK seated) .k = seated ∧ seated.presence = true ∧ seated.state ≠ .empty) ∧
    ((resting club).lines.get .k = ⟨false, .normal⟩ ∧ LineCondition.lineOpen ≠ .normal) := by decide +kernel

theorem test_ShortsFaultAStation :
    (down (withK seated) = false ∧ standby (withK seated) = false ∧ station (withK seated) .k = seated ∧
      seated.condition ≠ shortCondition .high ∧ seated.state ≠ .lineFault ∧ seated.presence = true ∧
      seated.condition = .normal) ∧
    ({ shorted with state := .lineFault, presence := true }.condition = .shortLow) ∧
    ({ seated with condition := .lineOpen }.condition = .lineOpen) ∧
    ({ shorted with state := .lineFault }.condition ≠ shortCondition .high) ∧ (shorted.state ≠ .lineFault) := by decide +kernel

/-- A cartridge read from being seated to GENUINE would need the digest of a free function: the first two steps. -/
theorem test_identityRead :
    (station (after (.identReadAnswer .k (withCheck (0x90 :: (le 8 100 ++ [0] ++ le 3 5000 ++ le 3 4000))))
      (after (.presenceAppears .k) club)) .k).state = .challenging ∧
    (station (after (.identReadAnswer .k (withCheck (0x90 :: (le 8 100 ++ [1] ++ le 3 5000 ++ le 3 4000))))
      (after (.presenceAppears .k) club)) .k).rejectReason = some .wrongStation := by decide +kernel

/-- A station with this exchange in flight at this attempt. -/
def asking (e : Exchange) (attempt : Nat) : StationRecord := { seated with inFlight := some ⟨e, attempt⟩ }

theorem test_FailedAttempts :
    (down (withK (asking .identRead 2)) = false ∧ station (withK (asking .identRead 2)) .k = asking .identRead 2 ∧
      (asking .identRead 2).inFlight = some ⟨.identRead, 2⟩ ∧ Exchange.identRead ≠ .proof none ∧ 2 < 3) ∧
    (3 ≤ 3 ∧ (asking (.yieldWrite 5 true 3) 3).state ≠ .unreachable ∧ Exchange.yieldWrite 5 true 3 ≠ .proof none) ∧
    (({ club with lines := club.lines.set .k ⟨true, .lineOpen⟩ }.lines.get .k).condition = .lineOpen) ∧
    (((withK seated).lines.get .k).condition ≠ .lineOpen ∧ ([0x90] : List Byte).head? ≠ some 0xFF ∧
      ([0x90] : List Byte).length ≠ 17) ∧
    ((withCheck (0x90 :: (le 8 100 ++ [0] ++ le 3 5 ++ le 3 6))).length = 17 ∧
      u24 (le 8 100 ++ [0] ++ le 3 5 ++ le 3 6) 9 < u24 (le 8 100 ++ [0] ++ le 3 5 ++ le 3 6) 12) ∧
    ((withCheck (0xA0 :: (le 3 200001 ++ List.replicate 32 7))).length = 37 ∧
      seated.cartridge = some ⟨100, 200000⟩ ∧ 200000 < u24 (le 3 200001 ++ List.replicate 32 7) 0) ∧
    ((withCheck (0xB0 :: (le 3 5 ++ [2]))).length = 6 ∧ u8 (le 3 5 ++ [2]) 3 ≠ true.toNat) := by decide +kernel

/-- A station whose identity read is in flight. -/
def probing : StationRecord := { asking .identRead 1 with state := .probing }

theorem test_IdentityIsAcceptedOrRejected :
    (down (withK probing) = false ∧ station (withK probing) .k = probing ∧ probing.inFlight = some ⟨.identRead, 1⟩ ∧
      probing.queue = [] ∧ probing.state = .probing ∧ ((withK probing).lines.get .k).condition ≠ .lineOpen ∧
      (withK probing).randomSource.health = .healthy ∧ 1 ≤ 16777215 ∧ 16777215 ≤ 16777215 ∧
      probing.cartridge.map (·.serial) = some 100 ∧ probing.cartridge.map (·.serial) ≠ some 101) ∧
    (probing.state ≠ .rejected ∧ Station.drum ≠ .k) ∧
    ((asking (.proof (some 5)) 1).cartridge = some ⟨100, 200000⟩ ∧ 200000 ≤ 200000) := by decide +kernel

/-- The state with its random source UNHEALTHY. -/
def unhealthy (s : State) : State := { s with randomSource := { s.randomSource with health := .unhealthy } }

/-- With an UNHEALTHY random source the PROOF waits. -/
theorem test_IdentityIsAcceptedOrRejected_unhealthy :
    (down (unhealthy (withK probing)) = false ∧ station (unhealthy (withK probing)) .k = probing ∧
      (unhealthy (withK probing)).randomSource.health = .unhealthy) ∧
    (station (after (.identReadAnswer .k (withCheck (0x90 :: (le 8 100 ++ [0] ++ le 3 5000 ++ le 3 4000))))
      (unhealthy (withK probing))) .k).queue = [.proof] := by decide +kernel

/-- Some digest is not the one expected, whatever that is. -/
theorem test_IdentityIsAcceptedOrRejected_digest (d : BitVec 256) : ∃ e : BitVec 256, e ≠ d :=
  ⟨~~~d, fun h => by have := congrArg (fun v : BitVec 256 => v.getLsbD 0) h; simp at this⟩

/-- A station being challenged, its nonce not yet drawn. -/
def challenged : StationRecord := { asking (.proof none) 1 with state := .challenging }

theorem test_MatchingProofChoosesTheState :
    (down { withK challenged with randomSource := ⟨.healthy, [.nonce .k], [.nonce 4]⟩ } = false ∧
      station { withK challenged with randomSource := ⟨.healthy, [.nonce .k], [.nonce 4]⟩ } .k = challenged ∧
      challenged.inFlight = some ⟨.proof none, 1⟩ ∧
      { withK challenged with randomSource := ⟨.healthy, [.nonce .k], [.nonce 4]⟩ }.randomSource.draws = .nonce .k :: []) ∧
    ({ challenged with inFlight := some ⟨.proof (some 5), 1⟩ }.queue = [] ∧ challenged.state = .challenging ∧
      challenged.cartridge = some ⟨100, 200000⟩ ∧ 28999 ≤ 200000 ∧ 28999 ≤ 16777215 ∧
      9000 = min challenged.remaining 28999 ∧ 28999 - 9000 < 20000 ∧ 0 < 9000 ∧
      ((withK challenged).lines.get .k).condition ≠ .lineOpen) ∧
    (0 = min challenged.remaining 0 ∧ challenged.graceAllowance ≤ challenged.graceUsed ∧
      ({ challenged with graceAllowance := 1 } : StationRecord).graceUsed < 1) ∧
    (.nonce 5 ∉ { withK challenged with randomSource := ⟨.healthy, [.nonce .k], [.nonce 4]⟩ }.randomSource.returned ∧
      .nonce 4 ∈ { withK challenged with randomSource := ⟨.healthy, [.nonce .k], [.nonce 4]⟩ }.randomSource.returned) ∧
    (29000 ≤ 200000 ∧ 9000 = min challenged.remaining 29000 ∧ 20000 ≤ 29000 - 9000) ∧
    ({ challenged with queue := [.yieldWrite] }.queue = [.yieldWrite] ∧ StationState.genuine ≠ .exhausted ∧
      StationState.exhausted = (if 0 < 0 then .genuine
        else if challenged.graceUsed < challenged.graceAllowance then .grace else .exhausted)) := by decide +kernel

/-- A station writing its yield of 8,500 while 500 more has been used. -/
def writing : StationRecord :=
  { asking (.yieldWrite 8500 false 500) 1 with remaining := 8000, unwritten := 1000 }

theorem test_WriteAnswerConfirmsOrIsStale :
    (down (withK writing) = false ∧ station (withK writing) .k = writing ∧ writing.queue = [] ∧
      writing.inFlight = some ⟨.yieldWrite 8500 false 500, 1⟩ ∧ writing.cartridge = some ⟨100, 200000⟩ ∧
      ((withK writing).lines.get .k).condition ≠ .lineOpen) ∧
    (8500 ≤ 200000 ∧ 8000 = min writing.remaining 8500 ∧ 8500 ≤ 8500 ∧ 8500 - 8000 < 20000 ∧
      ¬ (writing.state = .genuine ∧ 0 < writing.remaining ∧ 8000 = 0)) ∧
    (8500 < 8501 ∧ 8000 = min writing.remaining 8501 ∧ writing.state = .genuine) ∧
    (28000 ≤ 28000 ∧ 8000 = min writing.remaining 28000 ∧ 20000 ≤ 28000 - 8000) ∧
    (0 < writing.remaining ∧ 0 ≤ 8500 ∧ 0 = min writing.remaining 0 ∧ writing.graceAllowance ≤ writing.graceUsed ∧
      ({ writing with graceAllowance := 1 } : StationRecord).graceUsed < 1) := by decide +kernel

/-- The queues that a write may leave to be started, and what starts. -/
theorem test_WriteAnswerConfirmsOrIsStale_queue :
    (station (withK { writing with queue := [.proof, .yieldWrite] }) .k).queue ∈ legalQueues ∧
    (nextStarted .healthy { writing with queue := [.proof, .yieldWrite], inFlight := none }).inFlight =
      some ⟨.proof none, 1⟩ ∧
    (nextStarted .unhealthy { writing with queue := [.proof, .yieldWrite], inFlight := none }).queue = [.proof] ∧
    (station (after (.yieldWriteAnswer .k (withCheck (0xB0 :: (le 3 8500 ++ [0]))))
      (withK { writing with queue := [.proof] })) .k).inFlight = some ⟨.proof none, 1⟩ ∧
    (after (.yieldWriteAnswer .k (withCheck (0xB0 :: (le 3 8500 ++ [0])))) (withK { writing with queue := [.proof] })
      ).randomSource.draws = [.nonce .k] := by decide +kernel

/-- A confirmed write takes the stored value, flips the toggle and raises its notice. -/
theorem test_yieldWriteAnswer :
    (station (after (.yieldWriteAnswer .k (withCheck (0xB0 :: (le 3 8500 ++ [0])))) (withK writing)) .k) =
      { writing with written := 8500, unwritten := 500, toggle := true, inFlight := none } ∧
    (after (.yieldWriteAnswer .k (withCheck (0xB0 :: (le 3 8500 ++ [0])))) (withK writing)).noticeUnit.pending.has
      .writeBackDone = true := by decide +kernel

theorem test_StationCommandsActOnTheirStation :
    (readyInRun (withK seated) ∧ station (withK seated) .k = seated ∧ carries (record 4 [0]) 4 [byteOf (stationCode .k)] ∧
      seated.state = .genuine ∧ seated.inFlight = none ∧ seated.queue = [] ∧
      (withK seated).randomSource.health = .healthy) ∧
    (ready (resting (withK seated)) ∧ standby (resting (withK seated)) = true) ∧
    ({ seated with state := .unreachable }.inFlight = none) ∧
    (({ seated with queue := [.yieldWrite] } : StationRecord).queue.contains .yieldWrite = true) ∧
    (StationState.acceptsWrite .rejected = false) ∧
    (carries (record 4 [4, 255]) 4 [byteOf (stationCode .drum), byteOf 255] ∧ 255 ≤ 255) ∧
    (({ seated with state := .grace, graceUsed := 3 } : StationRecord).state = .grace ∧ 3 ≤ 3) ∧
    (carries (record 20 ([16, 255] ++ List.replicate 16 5)) 20
      ([byteOf 16, byteOf 255] ++ (List.replicate 16 none).map fun o => byteOf (slotCode o)) ∧
      (List.replicate 16 (none : Option Station)).length = 16) := by decide +kernel

/-- An exchange in flight, a queue, an UNHEALTHY random source, and STANDBY. -/
theorem test_StationCommandsActOnTheirStation_queue :
    (readyInRun (withK writing) ∧ station (withK writing) .k = writing ∧ writing.state = .genuine ∧
      writing.queue ∈ legalQueues ∧ writing.inFlight ≠ none) ∧
    (asked .healthy .proof writing = { writing with queue := [.proof] } ∧
      asked .unhealthy .proof seated = { seated with queue := [.proof] } ∧
      asked .healthy .yieldWrite { writing with queue := [.yieldWrite] } = { writing with queue := [.yieldWrite] } ∧
      (asked .unhealthy .yieldWrite { seated with queue := [.proof] }).inFlight = some ⟨.yieldWrite 9000 false 0, 1⟩) ∧
    (readyInRun (unhealthy (withK seated)) ∧ station (unhealthy (withK seated)) .k = seated) ∧
    (ready (resting club) ∧ standby (resting club) = true ∧ carries (record 4 [4]) 4 [byteOf (stationCode .drum)] ∧
      carries (record 20 ([1, 1] ++ List.replicate 16 5)) 20
        ([byteOf 1, byteOf 1] ++ (List.replicate 16 none).map fun o => byteOf (slotCode o))) ∧
    (station (after (.recheckStation (record 4 [0])) (withK writing)) .k) =
      { writing with state := .rechecking, queue := [.proof] } := by decide +kernel

theorem test_DoseIsMeteredAgainstTheCartridge :
    (down (printing flyerOut seated leaf) = false ∧ linkIdle (printing flyerOut seated leaf) ∧ reportLegal (report500 1000) = true ∧
      sheetAt (printing flyerOut seated leaf) (report500 1000).sheet = some leaf ∧
      leaf.tag = (report500 1000).tag.toNat ∧ leaf.sides = 1 ∧ ((report500 1000).doses1.get .k).toNat = 1000 ∧
      station (printing flyerOut seated leaf) .k = seated ∧ seated.cartridge = some ⟨100, 200000⟩ ∧
      seated.queue = [] ∧ seated.inFlight = none ∧ 1000 < seated.remaining ∧ seated.unwritten + 1000 < 20000 ∧
      seated.lowRaised = false ∧ 20 * (seated.remaining - 1000) ≤ 200000 ∧
      (200000 < 20 * (({ seated with remaining := 10002 } : StationRecord).remaining - 1)) ∧
      (({ seated with remaining := 1000 } : StationRecord).state = .genuine ∧ 0 < 1000 ∧ 1000 ≤ 1000 ∧
        seated.graceAllowance ≤ seated.graceUsed ∧ ({ seated with graceAllowance := 1 } : StationRecord).graceUsed < 1) ∧
      (({ seated with state := .grace, remaining := 0, lowRaised := true } : StationRecord).unwritten < 20000 ∧
        seated.graceUsed < 255 ∧ seated.graceUsed + 1 < 2 ∧ 1 ≤ seated.graceUsed + 1)) ∧
    (∀ st, st ≠ .k → ((report500 1000).doses1.get st).toNat = 0 ∧ ((report500 1000).doses2.get st).toNat = 0) ∧
    (∀ k j, jobOfTag (printing flyerOut seated leaf) leaf.tag = some (k, j) → j.state ≠ .closing) := by
  refine ⟨by decide +kernel, everyStation (by decide +kernel), fun k j h => ?_⟩
  have e : jobOfTag (printing flyerOut seated leaf) leaf.tag = some (0, flyerOut) := by decide +kernel
  rw [e] at h; cases h; decide

/-- A duplex sheet with doses on both sides: the station goes to 0 on the second. -/
theorem test_DoseIsMeteredAgainstTheCartridge_sides :
    (({ leaf with sides := 2 } : Sheet).sides = 2 ∧
      (({ report500 600 with doses2 := { PerStation.all 0 with k := 400 } }).doses2.get .k).toNat = 400 ∧
      600 < 1000 ∧ 1000 ≤ 600 + 400 ∧ 1 ≤ 600 + 400 ∧
      (printing flyerOut seated leaf).stationUnit.rotation.counter + 1 <
        2 * (printing flyerOut seated leaf).stationUnit.rotation.interval) ∧
    (StationRecord.cold.cartridge = none) ∧
    (({ seated with state := .rechecking, remaining := 0, lowRaised := true } : StationRecord).unwritten < 20000) ∧
    (20000 ≤ ({ seated with unwritten := 19000 } : StationRecord).unwritten + 1000) ∧
    ((asking (.yieldWrite 8500 false 500) 1).inFlight = some ⟨.yieldWrite 8500 false 500, 1⟩ ∧
      20000 ≤ ({ asking (.yieldWrite 8500 false 500) 1 with unwritten := 19500 } : StationRecord).unwritten + 1000 - 500) := by
  decide +kernel

/-- A state whose rotation counter stands so, at slot 0. -/
def rotating (count : Nat) (x : StationRecord) : State :=
  { printing flyerOut x leaf with
    stationUnit := { (printing flyerOut x leaf).stationUnit with rotation := { Rotation.cold with counter := count } } }

theorem test_FullIntervalTakesItsSlot :
    ((down (rotating 100 seated) = false ∧ linkIdle (rotating 100 seated) ∧
      (rotating 100 seated).stationUnit.rotation.slots[(rotating 100 seated).stationUnit.rotation.pointer]? =
        some (some .k) ∧
      2 * (rotating 100 seated).stationUnit.rotation.interval ≤ (rotating 100 seated).stationUnit.rotation.counter ∧
      (station (rotating 100 seated) .k).state = .genuine ∧ (station (rotating 100 seated) .k).inFlight = none ∧
      (station (rotating 100 seated) .k).queue = [] ∧ (rotating 100 seated).randomSource.health = .healthy) ∧
    ((rotating 99 seated).stationUnit.rotation.counter < 2 * (rotating 99 seated).stationUnit.rotation.interval) ∧
    ((station (rotating 100 .cold) .k).state ≠ .genuine ∧ (station (rotating 100 .cold) .k).state ≠ .grace) ∧
    ({ Rotation.cold with pointer := 5 }.slots[5]? = some none ∧
      (rotating 99 seated).stationUnit.rotation.counter + 1 = 2 * (rotating 99 seated).stationUnit.rotation.interval)) ∧
    (∀ st, ((report500 0).doses1.get st).toNat = 0 ∧ ((report500 0).doses2.get st).toNat = 0) :=
  ⟨by decide +kernel, everyStation (by decide +kernel)⟩

/-- The slot of a station with an exchange in flight, and with an UNHEALTHY random source. -/
theorem test_FullIntervalTakesItsSlot_queue :
    ((station (rotating 100 writing) .k).queue ∈ legalQueues ∧ (station (rotating 100 writing) .k).state = .genuine ∧
      down (unhealthy (rotating 100 seated)) = false) ∧
    (station (after .rotationInterval (rotating 100 writing)) .k).queue = [.proof] ∧
    (station (after .rotationInterval (unhealthy (rotating 100 seated))) .k).queue = [.proof] := by decide +kernel

/-! ### Scan capture -/

/-- A store of so many lines of 16 pixels. -/
def lines16 (n : Nat) : BandStore := ⟨n, List.replicate (16 * n) 7⟩

theorem test_PageBeginIsDecided :
    (down (capturingIn .waiting { survey with pagesCaptured := 254 } none none [0, 2]) = false ∧
      standby (capturingIn .waiting { survey with pagesCaptured := 254 } none none [0, 2]) = false ∧
      (capturingIn .waiting { survey with pagesCaptured := 254 } none none [0, 2]).captureUnit.heldBack = [] ∧
      (capturingIn .waiting { survey with pagesCaptured := 254 } none none [0, 2]).captureUnit.phase = .waiting ∧
      (capturingIn .waiting { survey with pagesCaptured := 254 } none none [0, 2]).captureUnit.boundSlot = some 2 ∧
      (capturingIn .waiting { survey with pagesCaptured := 254 } none none [0, 2]).captureUnit.boundTag = some survey.tag ∧
      jobOfTag (capturingIn .waiting { survey with pagesCaptured := 254 } none none [0, 2]) 6 =
        some (0, { survey with pagesCaptured := 254 }) ∧
      1 ≤ survey.reserved.scan - survey.charged.scan - survey.committed.scan) ∧
    (club.captureUnit.phase = .unbound ∧ (receiving 5 none [0, 2]).captureUnit.phase = .receiving ∧
      standby (resting (capturingIn .waiting survey none none [0, 2])) = true) ∧
    (jobOfTag (capturingIn .waiting { survey with state := .stopped } none none [0, 2]) 6 =
        some (0, { survey with state := .stopped }) ∧
      ({ survey with charged := survey.reserved } : Job).reserved.scan -
        ({ survey with charged := survey.reserved } : Job).charged.scan - survey.committed.scan < 1 ∧
      255 ≤ ({ survey with pagesCaptured := 255 } : Job).pagesCaptured) := by decide +kernel

/-- PAGE_BEGIN is answered CAPTURE_READY; a line joins the store. -/
theorem test_pageBegin_line :
    (after .pageBegin (capturingIn .waiting survey none (some ⟨0, []⟩) [0, 2])).captureUnit.status = [[1, 6, 1]] ∧
    (after (.line (List.replicate 16 7)) (receiving 5 (some (lines16 5)) [0, 2])).captureUnit.filling =
      some (lines16 6) := by decide +kernel

/-- The page of the receiving state is in capture. -/
theorem inCapture (lines : Nat) (store : Option BandStore) (owned : List Nat) :
    capturing 2 0 surveyOut ⟨2, lines, 1⟩ (receiving lines store owned) :=
  ⟨⟨rfl, rfl, rfl, rfl, rfl, fun _ he _ => List.mem_singleton.mp he⟩, .inr (.inl rfl)⟩

/-- The state with these messages held back at the scanner. -/
def held (messages : List LaneMessage) (s : State) : State :=
  { s with captureUnit := { s.captureUnit with heldBack := messages } }

/-- A page of a CLOSING job is in capture. -/
def endingIn (phase : CapturePhase) (lines : Nat) (store : Option BandStore) : State :=
  capturingIn phase surveyEnding (some ⟨2, lines, 1⟩) store [0, 2]

theorem test_LineIsTakenOrDiscarded :
    (down club = false ∧ club.captureUnit.heldBack = [] ∧ club.captureUnit.phase ≠ .receiving ∧
      club.captureUnit.phase ≠ .finishing) ∧
    (down (receiving 5 (some (lines16 5)) [0, 2]) = false ∧
      (receiving 5 (some (lines16 5)) [0, 2]).captureUnit.heldBack = [] ∧
      (receiving 5 (some (lines16 5)) [0, 2]).captureUnit.phase = .receiving ∧
      (receiving 5 (some (lines16 5)) [0, 2]).captureUnit.filling = some (lines16 5) ∧
      (receiving 5 (some (lines16 5)) [0, 2]).captureUnit.page = some ⟨2, 5, 1⟩ ∧
      (receiving 5 (some (lines16 5)) [0, 2]).captureUnit.format = some ⟨16, 1⟩ ∧
      (List.replicate 16 (7 : Byte)).length = 16 * 1 ∧ (lines16 62).lines + 1 < 64 ∧ 10238 + 1 < 10240) ∧
    ((List.replicate 15 (7 : Byte)).length ≠ 16 * 1 ∧
      capturing 2 0 surveyOut ⟨2, 5, 1⟩ (receiving 5 (some (lines16 5)) [0, 2]) ∧
      closing 2 0 0 surveyEnding ⟨2, 5, 1⟩ (endingIn .receiving 5 (some (lines16 5)))) ∧
    ((receiving 5 none [0, 2]).captureUnit.filling = none) ∧
    (down (held [.line [7], .pageEnd] (receiving 5 none [0, 2])) = false ∧
      (held [.line [7], .pageEnd] (receiving 5 none [0, 2])).captureUnit.heldBack = [.line [7], .pageEnd]) ∧
    (down (held [.line [7]] club) = false ∧ (held [.line [7]] club).pending = [] ∧
      (held [.line [7]] club).retentionUnit.walk = none ∧ (held [.line [7]] club).captureUnit.phase = .unbound) := by
  decide +kernel

/-- A line held back until a store is free joins the page when the band is written. -/
theorem test_heldLine :
    (after .bandWriteEnd (after (.line (List.replicate 16 7)) (receiving 5 none [0, 2]))).captureUnit.filling =
      some (lines16 1) ∧
    (after (.line (List.replicate 16 7)) (receiving 5 none [0, 2])).captureUnit.discarded = 65535 := by decide +kernel

theorem freeDescriptor (lines : Nat) (store : Option BandStore) (owned : List Nat) :
    lowestDescriptor 1 (receiving lines store owned) :=
  ⟨by decide, rfl, fun b hb => by have : b = 0 := by omega
                                  subst this; rfl⟩

/-- The same, so often as a statement asks for the lowest descriptor and the first fit together. -/
theorem roomFor (lines : Nat) (store : Option BandStore) :
    lowestDescriptor 1 (receiving lines store [0, 2]) ∧ isFirstFit 1 1 [0, 2] :=
  ⟨freeDescriptor .., by decide⟩

theorem test_FullBandIsHandedOff :
    (down (receiving 63 (some (lines16 63)) [0, 2]) = false ∧
      (receiving 63 (some (lines16 63)) [0, 2]).captureUnit.heldBack = [] ∧
      (receiving 63 (some (lines16 63)) [0, 2]).captureUnit.phase = .receiving ∧
      (receiving 63 (some (lines16 63)) [0, 2]).captureUnit.boundSlot = some 2 ∧
      (List.replicate 16 (7 : Byte)).length = 16 * 1 ∧ (lines16 63).lines = 63 ∧ 63 + 1 < 10240 ∧
      risingList 0 [0, 2] = true ∧ (64 * LineFormat.lineBytes ⟨16, 1⟩ + 65535) / 65536 = 1) ∧
    lowestDescriptor 1 (receiving 63 (some (lines16 63)) [0, 2]) ∧ isFirstFit 1 1 [0, 2] :=
  ⟨by decide +kernel, roomFor ..⟩

theorem test_PageEndsAtTheLineLimit :
    (down (receiving 10239 (some (lines16 63)) [0, 2]) = false ∧
      (receiving 10239 (some (lines16 63)) [0, 2]).captureUnit.heldBack = [] ∧ 10239 < 10240 ∧ (lines16 63).lines = 63 ∧
      10240 ≤ 10240 ∧ 0 < (lines16 5).lines ∧ ((lines16 5).lines * LineFormat.lineBytes ⟨16, 1⟩ + 65535) / 65536 = 1) ∧
    lowestDescriptor 1 (receiving 10239 (some (lines16 63)) [0, 2]) ∧ isFirstFit 1 1 [0, 2] :=
  ⟨by decide +kernel, roomFor ..⟩

theorem owned_receiving (lines : Nat) (store : Option BandStore) (owned : List Nat) :
    (receiving lines store owned).captureUnit.extents = owned := rfl

/-- The state with the descriptors below a number taken. -/
def takenBelow (n : Nat) (s : State) : State :=
  { s with captureUnit := { s.captureUnit with
    descriptors := (List.range n).map fun b => (b, ⟨1, 1, 2, 32, 0, 1, some 7⟩) } }

theorem descriptor_takenBelow {n b : Nat} {s : State} (h : b < n) : (descriptor (takenBelow n s) b).isSome := by
  have := find_mapRange (d := (⟨1, 1, 2, 32, 0, 1, some 7⟩ : Descriptor)) n 0 b (Nat.zero_le _) (by omega)
  rw [← List.range_eq_range'] at this
  simp only [descriptor, takenBelow, this, Option.isSome_some]

theorem test_DroppedPageStopsItsJob :
    (down (receiving 63 (some (lines16 63)) (List.range 16384)) = false ∧
      (receiving 63 (some (lines16 63)) (List.range 16384)).captureUnit.heldBack = [] ∧
      (receiving 63 (some (lines16 63)) (List.range 16384)).captureUnit.phase = .receiving ∧
      (receiving 63 (some (lines16 63)) (List.range 16384)).captureUnit.filling = some (lines16 63)) ∧
    capturing 2 0 surveyOut ⟨2, 63, 1⟩ (receiving 63 (some (lines16 63)) (List.range 16384)) ∧
    risingList 0 (receiving 63 (some (lines16 63)) (List.range 16384)).captureUnit.extents = true ∧
    (∀ c, c + (64 * LineFormat.lineBytes ⟨16, 1⟩ + 65535) / 65536 ≤ 16384 →
      ∃ e ∈ (receiving 63 (some (lines16 63)) (List.range 16384)).captureUnit.extents, c ≤ e ∧
        e < c + (64 * LineFormat.lineBytes ⟨16, 1⟩ + 65535) / 65536) ∧
    club.captureUnit.page = none ∧
    closing 2 0 0 surveyEnding ⟨2, 5, 1⟩ (endingIn .receiving 5 (some (lines16 5))) ∧
    (∀ b, b < 4096 → (descriptor (takenBelow 4096 (receiving 63 (some (lines16 63)) [0, 2])) b).isSome) := by
  have h1 : (64 * LineFormat.lineBytes ⟨16, 1⟩ + 65535) / 65536 = 1 := by decide
  have h2 : (receiving 63 (some (lines16 63)) (List.range 16384)).captureUnit.extents = List.range 16384 :=
    owned_receiving ..
  refine ⟨⟨rfl, rfl, rfl, rfl⟩, inCapture .., ?_, fun c hc => ?_, rfl, by decide +kernel, fun b hb => ?_⟩
  · have := risingList_range' 0 16384 0 (Nat.le_refl _) [] rfl
    rw [h2, List.range_eq_range']; simpa using this
  · rw [h1] at hc ⊢
    rw [h2]
    exact ⟨c, List.mem_range.mpr (by omega), by omega, by omega⟩
  · exact descriptor_takenBelow hb

/-- A page of one line of a CLOSING job, with these extents owned. -/
def endingOwned (owned : List Nat) : State :=
  capturingIn .receiving surveyEnding (some ⟨2, 1, 1⟩) (some (lines16 1)) owned

theorem closing_endingOwned (owned : List Nat) : closing 2 0 0 surveyEnding ⟨2, 1, 1⟩ (endingOwned owned) ∧
    (endingOwned owned).captureUnit.extents = owned :=
  ⟨⟨⟨rfl, rfl, rfl, rfl, rfl, fun _ he _ => List.mem_singleton.mp he⟩, rfl, rfl, rfl, rfl, rfl, rfl, rfl, rfl,
    fun h => nomatch (show AccountState.active = .retiring from h)⟩, rfl⟩

/-- PAGE_END and LINE_LIMIT with a part of a band left, at its least and its most, and no room for it. -/
theorem test_DroppedPageStopsItsJob_pageEnd :
    ((receiving 1 (some (lines16 1)) [0, 2]).captureUnit.filling = some (lines16 1) ∧ 0 < (lines16 1).lines ∧
      ((lines16 1).lines * LineFormat.lineBytes ⟨16, 1⟩ + 65535) / 65536 = 1 ∧
      (receiving 10240 (some (lines16 63)) [0, 2]).captureUnit.phase = .receiving ∧ 10240 ≤ 10240) ∧
    capturing 2 0 surveyOut ⟨2, 1, 1⟩ (receiving 1 (some (lines16 1)) (List.range 16384)) ∧
    capturing 2 0 surveyOut ⟨2, 10240, 1⟩ (receiving 10240 (some (lines16 63)) (List.range 16384)) ∧
    risingList 0 (endingOwned (List.range 16384)).captureUnit.extents = true ∧
    (∀ c, c + 1 ≤ 16384 → ∃ e ∈ (endingOwned (List.range 16384)).captureUnit.extents, c ≤ e ∧ e < c + 1) ∧
    closing 2 0 0 surveyEnding ⟨2, 1, 1⟩ (endingOwned (List.range 16384)) := by
  obtain ⟨h', h⟩ := closing_endingOwned (List.range 16384)
  refine ⟨by decide +kernel, inCapture .., inCapture .., ?_, fun c hc => ?_, h'⟩
  · have := risingList_range' 0 16384 0 (Nat.le_refl _) [] rfl
    rw [h, List.range_eq_range']; simpa using this
  · rw [h]
    exact ⟨c, List.mem_range.mpr (by omega), by omega, by omega⟩

/-- The state with nothing left to write. -/
def written (s : State) : State := { s with captureUnit := { s.captureUnit with handedOff := [] } }

theorem test_PageEndFinishesThePage :
    ((down club = false ∧ club.captureUnit.heldBack = [] ∧ club.captureUnit.phase ≠ .receiving) ∧
      ((receiving 5 (some (lines16 5)) [0, 2]).captureUnit.phase = .receiving ∧ 0 < 5 ∧ 0 < (lines16 5).lines ∧
        surveyOut.owner = some 0 ∧ ((lines16 5).lines * LineFormat.lineBytes ⟨16, 1⟩ + 65535) / 65536 = 1) ∧
      ((receiving 5 none [0, 2]).captureUnit.filling = none ∧ (receiving 5 none [0, 2]).captureUnit.handedOff ≠ []) ∧
      ((lines16 0).lines = 0 ∧ (receiving 64 (some (lines16 0)) [0, 2]).captureUnit.handedOff ≠ []) ∧
      (closing 2 0 0 surveyEnding ⟨2, 0, 1⟩ (endingIn .receiving 0 (some (lines16 0))) ∧
        closing 2 0 0 surveyEnding ⟨2, 64, 1⟩ (written (endingIn .receiving 64 (some (lines16 0)))) ∧
        (written (endingIn .receiving 64 (some (lines16 0)))).captureUnit.handedOff = [])) ∧
    (lowestDescriptor 1 (receiving 5 (some (lines16 5)) [0, 2]) ∧ isFirstFit 1 1 [0, 2]) ∧
    capturing 2 0 surveyOut ⟨2, 0, 1⟩ (receiving 0 (some (lines16 0)) [0, 2]) ∧
    capturing 2 0 surveyOut ⟨2, 5, 1⟩ (receiving 5 (some (lines16 5)) [0, 2]) :=
  ⟨by decide +kernel, roomFor .., inCapture .., inCapture ..⟩

/-- PAGE_END of a CLOSING job's page, with one line left and with 63, and with no store free. -/
theorem test_PageEndFinishesThePage_closing :
    ((endingIn .receiving 1 (some (lines16 1))).captureUnit.filling = some (lines16 1) ∧
      (endingIn .receiving 63 (some (lines16 63))).captureUnit.page = some ⟨2, 63, 1⟩ ∧
      (endingIn .receiving 63 (some (lines16 63))).captureUnit.boundSlot = some 2 ∧ 0 < (lines16 63).lines ∧
      (endingIn .receiving 63 (some (lines16 63))).captureUnit.extents = [0, 2] ∧
      (endingIn .receiving 64 none).captureUnit.filling = none ∧ (endingIn .receiving 64 none).captureUnit.handedOff ≠ []) ∧
    (descriptor (endingIn .receiving 63 (some (lines16 63))) 0).isSome ∧
    descriptor (endingIn .receiving 63 (some (lines16 63))) 1 = none ∧
    (after .pageEnd (endingIn .receiving 63 (some (lines16 63)))).captureUnit.phase = .finishing ∧
    (after .pageEnd (endingIn .receiving 63 (some (lines16 63)))).captureUnit.page = some ⟨2, 63, 2⟩ := by decide +kernel

/-- The page of a CLOSING job ends with every band written: it is charged, the job settles, and the scan is held. -/
theorem test_pageEnd_closing :
    (Table.find (after .pageEnd (written (endingIn .receiving 64 (some (lines16 0))))).jobUnit.jobs 0).map
      (fun j => (j.state, j.charged, j.pagesCaptured)) = some (.settled, ⟨0, 0, 1⟩, 2) ∧
    (after .pageEnd (written (endingIn .receiving 64 (some (lines16 0))))).holdUnit.holdList = [2] := by decide +kernel

/-- The page at its line limit, its last band waiting to be written. -/
def finishing : State := capturingIn .finishing surveyOut (some ⟨2, 64, 1⟩) (some ⟨0, []⟩) [0, 2]

theorem test_WrittenBandStandsInItsRun :
    (down finishing = false ∧ finishing.captureUnit.handedOff = ⟨3, [1, 2, 3, 4]⟩ :: [] ∧
      finishing.captureUnit.boundSlot = some 2 ∧ descriptor finishing 3 = some ⟨2, 1, 1, 4, 2, 1, none⟩ ∧
      finishing.captureUnit.heldBack = [] ∧ finishing.captureUnit.phase = .finishing) ∧
    (capturing 2 0 surveyOut ⟨2, 64, 1⟩ finishing ∧ surveyOut.owner = some 0) ∧
    (receiving 5 none [0, 2]).captureUnit.phase ≠ .finishing ∧
    (closing 2 0 0 surveyEnding ⟨2, 64, 1⟩ (endingIn .finishing 64 (some ⟨0, []⟩))) ∧
    ((held [.line (lines16 1).bytes] (receiving 10238 none [0, 2])).captureUnit.heldBack = [.line (lines16 1).bytes] ∧
      (lines16 1).bytes.length = 16 * 1 ∧ 10238 + 1 < 10240 ∧
      (held [.line (lines16 1).bytes] (receiving 10238 none [0, 2])).captureUnit.filling = none) := by decide +kernel

/-- The last band written completes the page and charges it; the bytes in image memory are not the plain ones. -/
theorem test_bandWriteEnd :
    (Table.find (after .bandWriteEnd finishing).jobUnit.jobs 0).map (fun j => (j.charged, j.pagesCaptured)) =
      some (⟨0, 0, 1⟩, 2) ∧
    (after .bandWriteEnd finishing).captureUnit.phase = .waiting ∧
    Memory.readBytes (after .bandWriteEnd finishing).imageMemory.cells 131072 4 ≠ [1, 2, 3, 4] ∧
    Cipher.crypt 5 (bandNonce 2 ⟨2, 1, 1, 4, 2, 1, none⟩)
      (Memory.readBytes (after .bandWriteEnd finishing).imageMemory.cells 131072 4) = [1, 2, 3, 4] := by decide +kernel


/-! ### Held scans -/

/-- RELEASE_SCAN of a slot with a credential. -/
def releaseBody (n : Nat) (credential : List Byte) : List Byte := [byteOf n, byteOf credential.length] ++ credential

theorem test_ReleaseNeedsTheOwnersCredential :
    (ready (archive kept) ∧ Table.wfDefault .blank (archive kept).holdUnit.slots = true ∧
      carries (record 36 (releaseBody 2 [1, 2, 3, 4, 5, 6, 7, 8])) 36
        ([byteOf 2, byteOf ([1, 2, 3, 4, 5, 6, 7, 8] : List Byte).length] ++ [1, 2, 3, 4, 5, 6, 7, 8]) ∧
      keySlot (archive kept) 2 = kept ∧ kept.owner = some 0 ∧ account (archive kept) 0 = member ∧
      standby (archive kept) = false ∧ kept.state = .held ∧ kept.damaged = false ∧ faulted (archive kept) = false ∧
      member.state = .active ∧ member.digest = some ⟨[1, 2, 3, 4, 5, 6, 7, 8]⟩) ∧
    (∀ m, (keySlot (archive kept) m).state ≠ .releasing) ∧
    (carries (record 36 (releaseBody 47 (List.replicate 32 1))) 36
        ([byteOf 47, byteOf (List.replicate 32 (1 : Byte)).length] ++ List.replicate 32 1) ∧
      (⟨[1, 2, 3, 4, 5, 6, 7, 8]⟩ : CredentialDigest) ≠ ⟨List.replicate 32 1⟩ ∧ member.failed = 2 ∧
      ({ member with failed := 1 } : Account).failed < 2) ∧
    (standby (resting (archive kept)) = true ∧ (inRelease false).state ≠ .held ∧
      ({ kept with damaged := true } : KeySlot).damaged = true ∧ faulted (faulty (archive kept)) = true ∧
      (account lockedClub 0).state = .suspended .lockout) ∧
    (∃ m, (keySlot (archive (inRelease false)) m).state = .releasing) :=
  ⟨by decide +kernel, noneReleasing (by decide +kernel), by decide +kernel, by decide +kernel, ⟨2, by decide +kernel⟩⟩

/-- An EMPTY slot, and one of no owner. -/
theorem test_ReleaseNeedsTheOwnersCredential_empty :
    (ready (archive kept) ∧ standby (archive kept) = false ∧ (keySlot (archive kept) 47).state ≠ .held ∧
      (keySlot (archive kept) 47).owner = none ∧ standby (resting (archive kept)) = true) ∧
    response (after (.releaseScan (record 36 (releaseBody 47 (List.replicate 8 1)))) (archive kept)) =
      (Response.badState.code, []) := by decide +kernel

/-- The third credential that does not match locks the account out. -/
theorem test_releaseScan_lockout :
    response (after (.releaseScan (record 36 (releaseBody 2 [8, 7, 6, 5, 4, 3, 2, 1]))) (archive kept)) = (26, []) ∧
    (account (after (.releaseScan (record 36 (releaseBody 2 [8, 7, 6, 5, 4, 3, 2, 1]))) (archive kept)) 0).state =
      .suspended .lockout := by decide +kernel

/-- The descriptor of a band whose 14 bytes in image memory are zeros, with the tag of those bytes under key 5. -/
def sound : Descriptor :=
  ⟨1, 2, 1, 14, 2, 1, some (bandTag 5 2 ⟨1, 2, 1, 14, 2, 1, none⟩ (List.replicate 14 0))⟩

/-- The scan in release, its second band being read. -/
def readingBand : State :=
  { archive (inRelease false) with
    captureUnit := { (archive (inRelease false)).captureUnit with descriptors := [(3, sound)] }
    holdUnit := { (archive (inRelease false)).holdUnit with streamer := .reading } }

theorem test_BandIsReleasedOnlyIfItsTagMatches :
    (down readingBand = false ∧ readingBand.holdUnit.streamer = .reading ∧ releasingSlot readingBand = some 2 ∧
      keySlot readingBand 2 = inRelease false ∧ (inRelease false).release = some ⟨1, 4, 10⟩ ∧
      (inRelease false).bands[1]? = some 3 ∧ descriptor readingBand 3 = some sound) ∧
    (sound.tag = some (bandTag (inRelease false).key 2 sound
      (Memory.readBytes readingBand.imageMemory.cells (sound.firstExtent * 65536) sound.length))) ∧
    (sound.tag ≠ some (bandTag (inRelease false).key 2 sound
      ([((0 : Nat), (1 : Byte))].foldl (fun l c => l.set c.1 c.2)
        (Memory.readBytes readingBand.imageMemory.cells (sound.firstExtent * 65536) sound.length)))) := by decide +kernel

/-- The scan in release with this phase, buffer and FIFO. -/
def streaming (phase : StreamerPhase) (buffer fifo : List Byte) : State :=
  { archive (inRelease true) with
    holdUnit := { (archive (inRelease true)).holdUnit with
      streamer := phase, bandBuffer := buffer, fifo := fifo, minute := 10, walkDue := true } }

theorem test_StreamKeepsTheOrderOfTheBytes :
    (down (streaming .moving (List.replicate 14 3) [7]) = false ∧
      (streaming .moving (List.replicate 14 3) [7]).holdUnit.streamer = .moving ∧
      releasingSlot (streaming .moving (List.replicate 14 3) [7]) = some 2 ∧
      keySlot (streaming .moving (List.replicate 14 3) [7]) 2 = inRelease true ∧
      (inRelease true).release = some ⟨1, 4, 10⟩ ∧ 4 + 9 < (List.replicate 14 (3 : Byte)).length ∧
      (List.replicate 14 (3 : Byte)).length ≤ 4 + 10) ∧
    ((streaming .idle [] []).holdUnit.streamer ≠ .draining) ∧
    ((streaming .draining [] [1, 2, 3, 4]).holdUnit.streamer = .draining ∧
      (streaming .draining [] [1, 2, 3, 4]).holdUnit.fifo.length ≤ 4 ∧
      releasingSlot (streaming .draining [] [1, 2, 3, 4]) = some 2 ∧
      (keySlot (streaming .draining [] [1, 2, 3, 4]) 2).state = .releasing) := by decide +kernel

/-- The last bytes read give their word, and the scan is gone. -/
theorem test_streamPortRead :
    (after .streamPortRead (streaming .draining [] [1, 2, 3, 4])).controlPort.streamWord = 0x04030201 ∧
    keySlot (after .streamPortRead (streaming .draining [] [1, 2, 3, 4])) 2 = KeySlot.blank ∧
    (after .streamPortRead (streaming .draining [] [1, 2, 3, 4])).captureUnit.descriptors = [] := by decide +kernel

theorem test_CancelAndDeleteEndAHeldScan :
    (ready (archive (inRelease true)) ∧ carries (record 4 [2]) 4 [byteOf 2] ∧ 2 < 48 ∧
      keySlot (archive (inRelease true)) 2 = inRelease true ∧ (inRelease true).state = .releasing ∧
      (inRelease true).expiryDue = true ∧ (inRelease false).expiryDue = false ∧
      standby (archive (inRelease true)) = false) ∧
    (standby (resting (archive kept)) = true ∧ kept.state = .held ∧ kept.state ≠ .releasing) ∧
    (carries (record 4 [47]) 4 [byteOf 47] ∧ (keySlot club 47).state = .empty) := by decide +kernel

/-- What a write of account 7 took. -/
def image : NvAccount :=
  { state := .active, number := some 7, group := 2, unlimited := false, available := ⟨110, 55, 23⟩, lifetime := ⟨1, 2, 3⟩
    countSaturated := false, creditClipped := false, digest := none }

/-- The club with an image that holds account 7 twice, and more than the limit. -/
def imaged (supply : SupplyState) (reset : ResetProgress) : State :=
  { club with retentionUnit := { club.retentionUnit with
    supply := supply, reset := reset
    nvAccounts := [(0, { image with available := ⟨16777216, 0, 0⟩ }), (1, image), (2, { image with state := .retiring })] } }

/-- The state a minute before the first scan expires. -/
def lastMinute (s : State) : State := { s with holdUnit := { s.holdUnit with minute := 9 } }

theorem test_ExpiryWalkErasesWhatIsDue :
    (down (lastMinute (archive kept)) = false ∧ (lastMinute (archive kept)).holdUnit.holdList.Nodup ∧
      10 = min 4294967295 ((lastMinute (archive kept)).holdUnit.minute + 1) ∧
      [2] = (lastMinute (archive kept)).holdUnit.holdList.takeWhile (fun n => decide (expiryOf (lastMinute (archive kept)) n ≤ 10)) ∧
      [2] = [2].filter (fun n => (keySlot (lastMinute (archive kept)) n).state != .releasing)) ∧
    ((imaged .holding (.warm true false .pin)).retentionUnit.supply = .holding ∧
      (imaged .holding (.warm true false .pin)).retentionUnit.reset = .warm true false .pin) ∧
    ((imaged .lost .none).retentionUnit.supply = .lost ∧ (imaged .holding .cold).retentionUnit.reset = .cold) ∧
    club.holdUnit.walkDue = false ∧
    (down (streaming .idle [] []) = false ∧ (streaming .idle [] []).holdUnit.walkDue = true ∧
      (streaming .idle [] []).holdUnit.holdList.Nodup ∧
      [2] = (streaming .idle [] []).holdUnit.holdList.takeWhile (fun n =>
        decide (expiryOf (streaming .idle [] []) n ≤ (streaming .idle [] []).holdUnit.minute)) ∧
      [] = [2].filter (fun n => (keySlot (streaming .idle [] []) n).state != .releasing)) := by decide +kernel

/-- A held scan whose minute has come is erased at the tick, and its notice raised. -/
theorem test_minuteTick :
    keySlot (after .minuteTick (lastMinute (archive kept))) 2 = KeySlot.blank ∧
    (after .minuteTick (lastMinute (archive kept))).noticeUnit.pending.has .scanExpired = true := by decide +kernel

/-! ### Notices and faults -/

theorem test_NoticesAndFaultsInterruptOnTheirEdges :
    (ready club ∧ PerGroup.defined.legal = true ∧
      carries (record 20 (packNotices .defined)) 20 (packNotices .defined)) ∧ carries (record 0 []) 0 [] := by decide +kernel

/-- Enabling a pending notice sends one interrupt; enabling another does not send a second. -/
theorem test_setNoticeEnable :
    (after (.setNoticeEnable (record 20 (packNotices ⟨1, 0, 0, 0, 0⟩))) (raise .lockout club)).noticeUnit.interrupts = 1 ∧
    (after (.setNoticeEnable (record 20 (packNotices .defined)))
      (after (.setNoticeEnable (record 20 (packNotices ⟨1, 0, 0, 0, 0⟩))) (raise .lockout club))).noticeUnit.interrupts =
        1 := by decide +kernel

/-! ### Retention -/

/-- The club with this walk in flight. -/
def walking (w : Walk) : State := { club with retentionUnit := { club.retentionUnit with walk := some w } }

theorem test_PreserveWalkWritesTheImage :
    (club.pending = [] ∧ club.retentionUnit.walk = none ∧ starting.pending = [] ∧ down starting = true ∧
      down (walking ⟨.groups, none, false, false⟩) = false ∧
      (walking ⟨.groups, none, false, false⟩).retentionUnit.walk = some ⟨.groups, none, false, false⟩ ∧
      (walking ⟨.account 511, none, false, false⟩).retentionUnit.walk = some ⟨.account 511, none, false, false⟩) ∧
    (ready club ∧ carries (record 0 []) 0 [] ∧ standby club = false) ∧
    (standby (resting club) = true ∧ (walking ⟨.groups, none, false, false⟩).retentionUnit.walk.isSome) ∧
    (down (walking ⟨.groups, some (.groups []), true, false⟩) = false ∧
      (walking ⟨.groups, some (.groups []), true, false⟩).retentionUnit.walk =
        some ⟨.groups, some (.groups []), true, false⟩) ∧
    (down (walking ⟨.account 511, some (.account image), false, true⟩) = false ∧
      (walking ⟨.account 511, some (.account image), false, true⟩).retentionUnit.walk =
        some ⟨.account 511, some (.account image), false, true⟩ ∧ 510 < 511) ∧
    club.captureUnit.heldBack = [] := by decide +kernel

/-- An update that changes what the image holds, before, at and after the walk's position. -/
theorem test_PreserveWalkWritesTheImage_marks :
    ((walking ⟨.account 511, some (.account image), false, false⟩).retentionUnit.walk =
        some ⟨.account 511, some (.account image), false, false⟩ ∧ 510 < 511 ∧
      sameForImage (account club 0) { account club 0 with group := 3 } = false ∧
      sameForImage (account club 511) { account club 511 with group := 3 } = false) ∧
    (updateAccount 511 (fun a => { a with group := 3 }) (walking ⟨.account 511, some (.account image), false, false⟩)
      ).retentionUnit.walk = some ⟨.account 511, some (.account image), true, false⟩ ∧
    (updateAccount 0 (fun a => { a with group := 3 }) (walking ⟨.account 511, some (.account image), false, false⟩)
      ).retentionUnit.walk = some ⟨.account 511, some (.account image), false, true⟩ ∧
    (updateAccount 511 (fun a => { a with group := 3 }) (walking ⟨.account 511, none, false, false⟩)
      ).retentionUnit.walk = some ⟨.account 511, none, false, false⟩ ∧
    (updateAccount 511 (fun a => { a with group := 3 }) (walking ⟨.groups, none, false, false⟩)
      ).retentionUnit.walk = some ⟨.groups, none, false, false⟩ := by decide +kernel

/-- The first write of a walk starts at a step with nothing waiting, and its end puts the policies into the image. -/
theorem test_nvWriteEnd :
    (match step (after (.preserveAccounts (record 0 [])) club) with
      | .next t => (after (.nvWriteEnd true) t).retentionUnit.nvGroups
      | _ => none) = some [] := by decide +kernel

theorem test_StandbyIsEnteredIdleAndLeftByProbing :
    (ready club ∧ carries (record 0 []) 0 [] ∧ standby club = false ∧ club.sheetLink.sheets = [] ∧
      (∀ e ∈ club.jobUnit.jobs, e.2.state ≠ .active ∧ e.2.state ≠ .closing) ∧
      (∀ e ∈ club.holdUnit.slots, e.2.state ≠ .capturing ∧ e.2.state ≠ .releasing) ∧ club.retentionUnit.walk = none) ∧
    (∀ st, (station club st).inFlight = none ∧ (station club st).queue = []) ∧
    (ready (resting club) ∧ standby (resting club) = true) ∧
    (∃ e ∈ (withJob0 flyerOut).jobUnit.jobs, e.2.state = .active ∨ e.2.state = .closing) ∧
    (∀ st, StationState.empty =
      if ((resting club).lines.get st).condition = .shortLow ∨ ((resting club).lines.get st).condition = .shortHigh then
        .lineFault else if ((resting club).lines.get st).presence then .probing else .empty) :=
  ⟨by decide +kernel, everyStation (by decide +kernel), by decide +kernel, by decide +kernel, everyStation (by decide +kernel)⟩

theorem test_ColdStartLoadsTheImage :
    ((imaged .holding .none).retentionUnit.supply = .holding ∧ (imaged .holding .none).retentionUnit.walk = none) ∧
    ((walking ⟨.account 511, some (.account image), false, true⟩).retentionUnit.supply = .holding) ∧
    ((imaged .lost .none).retentionUnit.supply = .lost ∧ Table.wf (imaged .lost .none).retentionUnit.nvAccounts = true ∧
      Table.find (imaged .lost .none).retentionUnit.nvAccounts 1 = some image ∧ image.state ≠ .free ∧
      image.state ≠ .retiring ∧ Table.find (imaged .lost .none).retentionUnit.nvAccounts 3 = none) := by decide +kernel

/-- The cold start stops the balance at its limit, and the second entry of a number is FREE. -/
theorem test_coldStart :
    (account (after .coldStart (imaged .lost .none)) 0).balance = ⟨16777215, 0, 0⟩ ∧
    (account (after .coldStart (imaged .lost .none)) 1) = Account.free false ∧
    (account (after .coldStart (imaged .lost .none)) 2) = Account.free false := by decide +kernel

theorem test_WarmResetKeepsTheRetainedDomain :
    ((club.retentionUnit.supply = .holding ∧ club.retentionUnit.reset = .none ∧ (archive kept).retentionUnit.walk = none ∧
      (∀ e ∈ (archive kept).holdUnit.slots, e.2.state = .held)) ∧
    (releasingSlot (archive (inRelease false)) = some 2 ∧ capturingSlot (archive (inRelease false)) = none ∧
      (keySlot (archive (inRelease false)) 2).expiryDue = false ∧
      (archive (inRelease false)).holdUnit.minute < expiryOf (archive (inRelease false)) 2) ∧
    (releasingSlot finishing = none ∧ capturingSlot finishing = some 2) ∧
    ((imaged .holding (.warm true false .pin)).retentionUnit.reset = .warm true false .pin) ∧
    ((imaged .holding .cold).retentionUnit.reset = .cold ∧ (imaged .holding .cold).jobUnit.jobs = []) ∧
    ((imaged .holding (.warm false false .pin)).retentionUnit.reset = .warm false false .pin)) ∧
    canonical (archive kept) ∧
    (∀ st, (station (imaged .holding .cold) st).inFlight = none ∧ (station (imaged .holding .cold) st).queue = []) :=
  ⟨by decide +kernel, by unfold canonical; decide +kernel, everyStation (by decide +kernel)⟩

/-- A walk cut off at an account and at the policies, and an overdue RELEASING slot: by its mark, and by its minute. -/
theorem test_WarmResetKeepsTheRetainedDomain_cutOff :
    (cutOff (.account 511) (walking ⟨.account 511, some (.account image), false, true⟩) = true ∧
      cutOff .groups (walking ⟨.groups, some (.groups []), true, false⟩) = true ∧
      cutOff (.account 1) (walking ⟨.account 1, none, false, false⟩) = false) ∧
    (Table.wfDefault .blank (archive (inRelease true)).holdUnit.slots = true ∧
      overdueRelease (archive (inRelease true)) = [2] ∧ overdueRelease (archive (inRelease false)) = [] ∧
      overdueRelease { archive (inRelease false) with
        holdUnit := { (archive (inRelease false)).holdUnit with minute := 10 } } = [2] ∧
      erasedByReset finishing = [2]) ∧
    keySlot (after (.warmReset .pin) (archive (inRelease true))) 2 = KeySlot.blank ∧
    (after (.warmReset .pin) (archive (inRelease true))).holdUnit.holdList = [5] := by decide +kernel

/-- A warm reset in its health test with a walk due: slot 2 expired in it. -/
def dueAtEnd : State :=
  { archive kept with
    holdUnit := { (archive kept).holdUnit with minute := 11, walkDue := true }
    retentionUnit := { (archive kept).retentionUnit with reset := .warm false false .pin } }

/-- The walk at the end of the health test erases it and raises no notice. -/
theorem test_WarmResetKeepsTheRetainedDomain_walk :
    (dueAtEnd.retentionUnit.supply = .holding ∧ dueAtEnd.jobUnit.jobs = [] ∧ dueAtEnd.holdUnit.walkDue = true ∧
      dueAtEnd.holdUnit.holdList.Nodup ∧
      [2] = dueAtEnd.holdUnit.holdList.takeWhile (fun n => decide (expiryOf dueAtEnd n ≤ dueAtEnd.holdUnit.minute)) ∧
      [2] = [2].filter (fun n => (keySlot dueAtEnd n).state != .releasing)) ∧
    (∀ st, (station dueAtEnd st).inFlight = none ∧ (station dueAtEnd st).queue = []) ∧
    keySlot (after (.healthTestEnd true) dueAtEnd) 2 = KeySlot.blank ∧
    (after (.healthTestEnd true) dueAtEnd).noticeUnit.pending = .none :=
  ⟨by decide +kernel, everyStation (by decide +kernel), by decide +kernel, by decide +kernel⟩

/-- A warm reset takes the pool back into the balance, and lasts until its health test. -/
theorem test_warmReset :
    (account (after (.warmReset .pin) (withJob0 flyer)) 0).balance = ⟨110, 55, 23⟩ ∧
    down (after (.warmReset .pin) (withJob0 flyer)) = true ∧
    down (after (.healthTestEnd true) (after (.resetCauseEnds .pin) (after (.warmReset .pin) (withJob0 flyer)))) =
      false := by decide +kernel

/-! ### The invariants -/

theorem account_club (i : Nat) : account club i = if i = 0 then member else Account.blank := by
  unfold club
  rw [account_putAccount]
  rfl

/-- A state that meets the invariant, with a command waiting. -/
theorem test_EveryStepKeeps : invariant (awaiting .minuteTick club) ∧
    ∃ t, step (awaiting .minuteTick club) = .next t := by
  refine ⟨⟨by unfold canonical; decide +kernel, ⟨fun i => ?_, (fun e he => by cases he), (fun w hw => by cases hw)⟩, fun i j hi hj hn he => ?_,
    everyStation (by decide +kernel), fun n m hn _ => absurd hn (noneReleasing (by decide +kernel) n), by decide +kernel⟩,
    _, rfl⟩
  · show (account club i).inBounds
    rw [account_club]
    unfold Account.inBounds
    split <;> decide +kernel
  · have hi' : (account club i).state ≠ .free := hi
    have hj' : (account club j).state ≠ .free := hj
    rw [account_club] at hi' hj'
    by_cases h0 : i = 0 <;> by_cases h1 : j = 0 <;> simp_all <;> first | exact absurd rfl hi' | exact absurd rfl hj'

end Sys2Proof.Tests
end

namespace Sys2Proof.SheetAccounting
open Sys2Proof.Machine

/-! SUPPORT. The frames of the sheet link, sent with the receiver IDLE, and the table of sheets in flight. -/

theorem whenUp_of_up {f : State → State} {s : State} (h : down s = false) : whenUp f s = f s := by
  simp [whenUp, h]

/-- An ask in range that arrives in IDLE is decided. -/
theorem exec_feedAsk {a : FeedAsk} {s : State} (hup : down s = false) (hidle : linkIdle s)
    (hlegal : feedAskLegal a = true) : exec (.feedAsk a) s = .next (takeAsk a s) := by
  show Host.Outcome.next (whenUp (receive (feedAskFrame a)) s) = _
  rw [whenUp_of_up hup, receive_feedAskFrame hidle, if_pos hlegal]

/-- A DELIVERED in range that arrives in IDLE is taken. -/
theorem exec_delivered {r : SheetReport} {s : State} (hup : down s = false) (hidle : linkIdle s)
    (hlegal : reportLegal r = true) : exec (.delivered r) s = .next (takeDelivered r s) := by
  show Host.Outcome.next (whenUp (receive (deliveredFrame r)) s) = _
  rw [whenUp_of_up hup, receive_deliveredFrame hidle, if_pos hlegal]

/-- A JAMMED in range that arrives in IDLE is taken. -/
theorem exec_jammed {imaged : Byte} {r : SheetReport} {s : State} (hup : down s = false) (hidle : linkIdle s)
    (himaged : imaged = 0 ∨ imaged = 1) (hlegal : reportLegal r = true) :
    exec (.jammed imaged r) s = .next (takeJammed imaged r s) := by
  have hj : jammedLegal imaged r = true := by rcases himaged with h | h <;> simp [jammedLegal, h, hlegal]
  show Host.Outcome.next (whenUp (receive (jammedFrame imaged r)) s) = _
  rw [whenUp_of_up hup, receive_jammedFrame hidle, if_pos hj]

theorem toNat_ne {m n : BitVec 16} (h : m ≠ n) : m.toNat ≠ n.toNat := fun he => h (BitVec.eq_of_toNat_eq he)

/-- The tables of two states list the same sheets. -/
theorem sheetAt_congr {s t : State} (h : t.sheetLink.sheets = s.sheetLink.sheets) (n : BitVec 16) :
    sheetAt t n = sheetAt s n := by simp only [sheetAt, h]

theorem sheetAt_removeSheet (n m : BitVec 16) (s : State) :
    sheetAt (removeSheet n s) m = if m = n then none else sheetAt s m := by
  refine (Table.find_drop _ _ _).trans ?_
  by_cases h : m = n
  · simp [h]
  · rw [if_neg h, if_neg (toNat_ne h)]; rfl

/-! ### The decision of an ask (R62 to R71) -/

/-- An ask for a sheet in flight is a repeat, or clashes (R63, R64). -/
theorem feedDecision_inFlight {a : FeedAsk} {s : State} {e : Sheet} (h : sheetAt s a.sheet = some e) :
    feedDecision a s = if e.tag = a.tag.toNat then (.feedOk, .none) else (.feedHalt, .clash) := by
  simp only [feedDecision, h]

/-- An ask for a sheet in flight is answered, and nothing else is done. -/
theorem takeAsk_inFlight {a : FeedAsk} {s : State} {e : Sheet} (h : sheetAt s a.sheet = some e) :
    takeAsk a s = if e.tag = a.tag.toNat then sendAnswer (feedReplyFrame a.sheet a.tag .feedOk .none true) s
      else sendAnswer (feedReplyFrame a.sheet a.tag .feedHalt .clash false) s := by
  simp only [takeAsk, feedDecision_inFlight h, h]
  split <;> simp

/-- A grant writes the entry of its sheet, and no other field of the link. -/
theorem sheetLink_grantSheet (a : FeedAsk) (s : State) :
    (grantSheet a s).sheetLink =
      { s.sheetLink with sheets := Table.put s.sheetLink.sheets a.sheet.toNat (askEntry a) } := by
  unfold grantSheet
  simp only
  split <;> rfl

theorem sheetAt_grantSheet (a : FeedAsk) (s : State) (n : BitVec 16) :
    sheetAt (grantSheet a s) n = if n = a.sheet then some (askEntry a) else sheetAt s n := by
  simp only [sheetAt, sheetLink_grantSheet, Table.find_put]
  by_cases h : n = a.sheet
  · simp [h]
  · rw [if_neg h, if_neg (toNat_ne h)]

/-- What the reply to an ask for a sheet not in flight leaves done: a grant, a stopped job, or a notice. -/
def askEffect (a : FeedAsk) (reply : Reply) (reason : FeedReason) (s : State) : State :=
  if reply = .feedOk then grantSheet a s
  else if reason = .account then haltForAccount a.tag.toNat s
  else if reason = .spent then raise .jobLimit s
  else s

/-- An ask for a sheet not in flight has the effect of its decision and is answered with the repeat marker no. -/
theorem takeAsk_new {a : FeedAsk} {s : State} {reply : Reply} {reason : FeedReason} (h : sheetAt s a.sheet = none)
    (hd : feedDecision a s = (reply, reason)) :
    takeAsk a s = sendAnswer (feedReplyFrame a.sheet a.tag reply reason false) (askEffect a reply reason s) := by
  simp only [takeAsk, hd, h, askEffect]
  cases reply <;> cases reason <;> simp

theorem sheetLink_haltForAccount (tag : Nat) (s : State) : (haltForAccount tag s).sheetLink = s.sheetLink :=
  parts_haltForAccount tag s .sheet (by decide)

/-- The effect of a decision on the link is an entry where it is FEED_OK, and none otherwise. -/
theorem sheetLink_askEffect (a : FeedAsk) (reply : Reply) (reason : FeedReason) (s : State) :
    (askEffect a reply reason s).sheetLink =
      if reply = .feedOk then (grantSheet a s).sheetLink else s.sheetLink := by
  unfold askEffect
  split
  · rfl
  · split
    · exact sheetLink_haltForAccount _ s
    · split <;> rfl

theorem sheetLink_sendAnswer (f : List Byte) (s : State) :
    (sendAnswer f s).sheetLink = { s.sheetLink with answers := s.sheetLink.answers ++ [f], receiver := .idle } := rfl

/-- Settles O23: the repeat is decided at the table alone, and only a grant adds an entry. -/
theorem repeatedAskIsAnsweredAgain : Obligations.RepeatedAskIsAnsweredAgain := by
  intro s a hup hidle hlegal
  rw [exec_feedAsk hup hidle hlegal]
  refine ⟨fun e he htag => by rw [takeAsk_inFlight he, if_pos htag]; rfl, fun hnew => ?_⟩
  cases hd : feedDecision a s with
  | mk reply reason =>
    refine ⟨_, reply, reason, congrArg _ (takeAsk_new hnew hd), ?_⟩
    have hentry := sheetAt_grantSheet a s a.sheet
    by_cases hok : reply = .feedOk
    · simp_all [sheetAt, sheetLink_sendAnswer, sheetLink_askEffect, sheetLink_grantSheet]
    · simp_all [sheetAt, sheetLink_sendAnswer, sheetLink_askEffect]

/-- Settles O24: the clash is decided at the table alone. -/
theorem clashingAskIsHalted : Obligations.ClashingAskIsHalted := by
  intro s a e hup hidle hlegal he htag
  rw [exec_feedAsk hup hidle hlegal, takeAsk_inFlight he, if_neg htag]
  rfl

/-! ### Stray reports (R76) -/

/-- A report is of the entry with its sheet number and its tag. -/
theorem reported_some {r : SheetReport} {s : State} {e : Sheet} (h : sheetAt s r.sheet = some e)
    (htag : e.tag = r.tag.toNat) : reported r s = some e := by
  simp [reported, h, htag, Option.filter]

theorem reported_none {r : SheetReport} {s : State} (h : ∀ e, sheetAt s r.sheet = some e → e.tag ≠ r.tag.toNat) :
    reported r s = none := by
  unfold reported
  cases he : sheetAt s r.sheet with
  | none => rfl
  | some e => simp [Option.filter, h e he]

/-- Settles O29: a report of no entry is taken as stray, whichever of the two it is. -/
theorem strayReportIsOnlyCounted : Obligations.StrayReportIsOnlyCounted := by
  intro s r imaged hup hidle hlegal himaged hnone i hi
  have htaken : exec i s = .next (strayReport r s) := by
    simp only [List.mem_cons, List.not_mem_nil, or_false] at hi
    rcases hi with rfl | rfl
    · rw [exec_delivered hup hidle hlegal, takeDelivered, reported_none hnone]
    · rw [exec_jammed hup hidle himaged hlegal, takeJammed, reported_none hnone]
  exact ⟨_, htaken, rfl, raised_raise .strayReport _, parts_strayReport r s⟩

end Sys2Proof.SheetAccounting

namespace Sys2Proof.SheetAccounting
open Sys2Proof.Machine

/-! SUPPORT. The checks of an ask in their order, and what each of them leaves (R59 to R71). -/

/-! ### The need of an ask (R59, R61) -/

theorem size_of_legal {a : FeedAsk} (h : feedAskLegal a = true) : a.size = 1 ∨ a.size = 2 := by
  simp only [feedAskLegal, Bool.and_eq_true, Bool.or_eq_true, beq_iff_eq] at h
  exact h.1.1.1.1.2

theorem class1_of_legal {a : FeedAsk} (h : feedAskLegal a = true) : a.class1 = 0 ∨ a.class1 = 1 := by
  simp only [feedAskLegal, Bool.and_eq_true, Bool.or_eq_true, beq_iff_eq] at h
  exact h.1.1.1.2

theorem class2_of_legal {a : FeedAsk} (h : feedAskLegal a = true) : a.class2 = 0 ∨ a.class2 = 1 := by
  simp only [feedAskLegal, Bool.and_eq_true, Bool.or_eq_true, beq_iff_eq] at h
  exact h.1.1.2.imp id And.left

/-- Each class's need is the size factor once for each side of the class. -/
theorem askNeeds_eq (a : FeedAsk) : askNeeds a =
    ⟨(if sideClassOf a.class1 = .mono then a.size.toNat else 0) +
        (if askSide2 a = some .mono then a.size.toNat else 0),
      (if sideClassOf a.class1 = .colour then a.size.toNat else 0) +
        (if askSide2 a = some .colour then a.size.toNat else 0), 0⟩ := rfl

theorem askSide2_simplex {a : FeedAsk} (h : a.sides = 1) : askSide2 a = none := by
  rw [askSide2, h]; rfl

theorem askSide2_duplex {a : FeedAsk} (h : a.sides = 2) : askSide2 a = some (sideClassOf a.class2) := if_pos h

theorem sideClassOf_zero : sideClassOf 0#8 = .mono := rfl
theorem sideClassOf_one : sideClassOf 1#8 = .colour := rfl

/-- The table of R59. -/
theorem askNeeds_table {a : FeedAsk} (hlegal : feedAskLegal a = true) :
    (askNeeds a).scan = 0 ∧
    (a.sides = 1 → a.class1 = 0 → askNeeds a = ⟨a.size.toNat, 0, 0⟩) ∧
    (a.sides = 1 → a.class1 = 1 → askNeeds a = ⟨0, a.size.toNat, 0⟩) ∧
    (a.sides = 2 → a.class1 = 0 → a.class2 = 0 → askNeeds a = ⟨2 * a.size.toNat, 0, 0⟩) ∧
    (a.sides = 2 → a.class1 = 1 → a.class2 = 1 → askNeeds a = ⟨0, 2 * a.size.toNat, 0⟩) ∧
    (a.sides = 2 → a.class1 ≠ a.class2 → askNeeds a = ⟨a.size.toNat, a.size.toNat, 0⟩) := by
  refine ⟨rfl, fun hs h1 => ?_, fun hs h1 => ?_, fun hs h1 h2 => ?_, fun hs h1 h2 => ?_, fun hs hne => ?_⟩
  · simp [askNeeds_eq, askSide2_simplex hs, h1, sideClassOf_zero]
  · simp [askNeeds_eq, askSide2_simplex hs, h1, sideClassOf_one]
  · simp [askNeeds_eq, askSide2_duplex hs, h1, h2, sideClassOf_zero, Nat.two_mul]
  · simp [askNeeds_eq, askSide2_duplex hs, h1, h2, sideClassOf_one, Nat.two_mul]
  · rcases class1_of_legal hlegal with h1 | h1 <;> rcases class2_of_legal hlegal with h2 | h2
    · exact absurd (h1.trans h2.symm) hne
    · simp [askNeeds_eq, askSide2_duplex hs, h1, h2, sideClassOf_zero, sideClassOf_one]
    · simp [askNeeds_eq, askSide2_duplex hs, h1, h2, sideClassOf_zero, sideClassOf_one]
    · exact absurd (h1.trans h2.symm) hne

/-- A sheet has a COLOUR side exactly where it needs COLOUR units: a size factor is 1 or 2. -/
theorem askHasColour_iff {a : FeedAsk} (hlegal : feedAskLegal a = true) :
    askHasColour a = true ↔ 0 < (askNeeds a).colour := by
  have hsize : 0 < a.size.toNat := by rcases size_of_legal hlegal with h | h <;> rw [h] <;> decide
  simp only [askNeeds_eq, askHasColour, Bool.or_eq_true, decide_eq_true_eq]
  by_cases h1 : sideClassOf a.class1 = .colour <;> by_cases h2 : askSide2 a = some .colour <;>
    simp [h1, h2, hsize, Nat.add_pos_left hsize]

/-- The need passes where both classes have the room (R35, R69). -/
theorem needFits_iff (a : FeedAsk) (j : Job) :
    needFits a j = true ↔ (askNeeds a).mono ≤ j.reserved.mono - j.charged.mono - j.committed.mono ∧
      (askNeeds a).colour ≤ j.reserved.colour - j.charged.colour - j.committed.colour := by
  simp only [needFits, Amounts.le, Bool.and_eq_true, decide_eq_true_eq]
  exact and_iff_left (Nat.le_refl 0)

/-! ### The stations of a mask -/

theorem any_iff {α : Type} (p : PerStation α) (f : α → Bool) : p.any f = true ↔ ∃ st, f (p.get st) = true := by
  simp only [PerStation.any, Bool.or_eq_true]
  constructor
  · rintro ((((h | h) | h) | h) | h)
    · exact ⟨.k, h⟩
    · exact ⟨.c, h⟩
    · exact ⟨.m, h⟩
    · exact ⟨.y, h⟩
    · exact ⟨.drum, h⟩
  · rintro ⟨st, h⟩
    cases st <;> simp_all [PerStation.get]

theorem get_map2 {α β γ : Type} (f : α → β → γ) (p : PerStation α) (q : PerStation β) (st : Station) :
    (PerStation.map2 f p q).get st = f (p.get st) (q.get st) := by cases st <;> rfl

/-- A mask meets a set of states where one of its stations is in it. -/
theorem maskMeets_iff (s : State) (mask : PerStation Bool) (p : StationState → Bool) :
    maskMeets s mask p = true ↔ ∃ st, mask.get st = true ∧ p (station s st).state = true := by
  simp only [maskMeets, any_iff, get_map2, id, Bool.and_eq_true]
  rfl

theorem maskMeets_eq_false {s : State} {mask : PerStation Bool} {p : StationState → Bool}
    (h : ∀ st, mask.get st = true → p (station s st).state = false) : maskMeets s mask p = false := by
  refine Bool.eq_false_iff.mpr fun hc => ?_
  obtain ⟨st, hm, hp⟩ := (maskMeets_iff s mask p).mp hc
  simp [h st hm] at hp

/-- Stations that permit a sheet are neither lost nor unproven (R84, R85). -/
theorem maskMeets_of_permits {s : State} {mask : PerStation Bool}
    (h : ∀ st, mask.get st = true →
      (station s st).state = .genuine ∨ (station s st).state = .rechecking ∨ (station s st).state = .grace) :
    maskMeets s mask StationState.lost = false ∧ maskMeets s mask StationState.unproven = false := by
  constructor <;>
  · refine maskMeets_eq_false fun st hm => ?_
    rcases h st hm with hs | hs | hs <;> rw [hs] <;> rfl

/-! ### The checks in their order (R62) -/

/-- An ask for a sheet not in flight, of a running PRINT job: what checks 5 to 11 look at. -/
structure AskOfJob (a : FeedAsk) (k i : Nat) (j : Job) (s : State) : Prop where
  isNew : sheetAt s a.sheet = none
  job : jobOfTag s a.tag.toNat = some (k, j)
  print : j.kind = .print
  running : j.state = .ready ∨ j.state = .active
  owner : j.owner = some i

theorem feedDecision_noJob {a : FeedAsk} {s : State} (hnew : sheetAt s a.sheet = none)
    (hjob : jobOfTag s a.tag.toNat = none) : feedDecision a s = (.feedHalt, .noJob) := by
  simp only [feedDecision, hnew, hjob]

theorem feedDecision_ended {a : FeedAsk} {k : Nat} {j : Job} {s : State} (hnew : sheetAt s a.sheet = none)
    (hjob : jobOfTag s a.tag.toNat = some (k, j)) (hend : j.state = .settled ∨ j.state = .closing ∨ j.kind = .scan) :
    feedDecision a s = (.feedHalt, .noJob) := by
  simp only [feedDecision, hnew, hjob, if_pos hend]

theorem feedDecision_stopped {a : FeedAsk} {k : Nat} {j : Job} {s : State} (hnew : sheetAt s a.sheet = none)
    (hjob : jobOfTag s a.tag.toNat = some (k, j)) (hprint : j.kind = .print) (hstop : j.state = .stopped) :
    feedDecision a s = (.feedHalt, .stopped) := by
  simp [feedDecision, hnew, hjob, hprint, hstop]

/-- Checks 5 to 11 of R62. -/
theorem feedDecision_running {a : FeedAsk} {k i : Nat} {j : Job} {s : State} (h : AskOfJob a k i j s) :
    feedDecision a s =
      if (account s i).state.stopReason.isSome then (.feedHalt, .account)
      else if maskMeets s (stationsOf a.mask) StationState.lost then (.feedHalt, .station)
      else if standby s then (.feedWait, .standby)
      else if 4 ≤ s.sheetLink.sheets.length then (.feedWait, .pathFull)
      else if maskMeets s (stationsOf a.mask) StationState.unproven then (.feedWait, .stationBusy)
      else if needFits a j = false then (.feedLimit, .spent)
      else if askHasColour a ∧ (groupPolicy s (account s i).group).colourAllowed = false then
        (.feedHalt, .notAllowed)
      else (.feedOk, .none) := by
  have hgoes : ¬ (j.state = .settled ∨ j.state = .closing ∨ j.kind = .scan) := by
    rcases h.running with hs | hs <;> simp [hs, h.print]
  have hnot : j.state ≠ .stopped := by rcases h.running with hs | hs <;> simp [hs]
  simp only [feedDecision, h.isNew, h.job, if_neg hgoes, if_neg hnot, h.owner, Option.getD_some]
  rfl

/-- A refusal that is neither ACCOUNT nor SPENT is answered, and nothing else is done. -/
theorem exec_refusedAsk {a : FeedAsk} {s : State} {reply : Reply} {reason : FeedReason} (hup : down s = false)
    (hidle : linkIdle s) (hlegal : feedAskLegal a = true) (hnew : sheetAt s a.sheet = none)
    (hd : feedDecision a s = (reply, reason)) (hno : reply ≠ .feedOk) (haccount : reason ≠ .account)
    (hspent : reason ≠ .spent) :
    exec (.feedAsk a) s = .next (sendAnswer (feedReplyFrame a.sheet a.tag reply reason false) s) := by
  rw [exec_feedAsk hup hidle hlegal, takeAsk_new hnew hd, askEffect, if_neg hno, if_neg haccount, if_neg hspent]

/-! ### The grant (R41, R71) -/

/-- A grant commits the need to the job that the tag names. -/
theorem grantSheet_job {a : FeedAsk} {k : Nat} {j : Job} {s : State} (h : jobOfTag s a.tag.toNat = some (k, j)) :
    (grantSheet a s).jobUnit = (putJob k (commitSheet a j) s).jobUnit := by
  simp only [grantSheet, h]
  rfl

theorem commitSheet_running {a : FeedAsk} {j : Job} (h : j.state = .ready ∨ j.state = .active) :
    commitSheet a j = { j with
      state := .active
      committed := j.committed.add (askNeeds a)
      stationsUsed := PerStation.map2 (· || ·) j.stationsUsed (stationsOf a.mask) } := by
  rcases h with h | h <;> simp [commitSheet, h]

/-- A write of one job entry is an event of that entry. -/
theorem onlyJob_putJob (k : Nat) (j : Job) (s : State) : onlyJob k s (putJob k j s) :=
  ⟨fun k' hk => by rw [find_putJob, if_neg hk], rfl, rfl⟩

/-- An event of one job entry is seen in the job unit alone. -/
theorem onlyJob_congr {k : Nat} {s t u : State} (h : onlyJob k s t) (hu : u.jobUnit = t.jobUnit) : onlyJob k s u := by
  unfold onlyJob
  rw [hu]
  exact h

/-- Settles O25: an ask that no check stops is granted, and a grant adds its entry and commits its need. -/
theorem grantedAskEntersThePaperPath : Obligations.GrantedAskEntersThePaperPath := by
  refine ⟨fun a hlegal => askNeeds_table hlegal, ?_⟩
  intro s a k i j hup hidle hlegal hnew hjob hrun hprint howner hactive hstandby hroom hpermit hmono hcolour hgroup
  have hask : AskOfJob a k i j s := ⟨hnew, hjob, hprint, hrun, howner⟩
  obtain ⟨hlost, hunproven⟩ := maskMeets_of_permits hpermit
  have hfits := (needFits_iff a j).mpr ⟨hmono, hcolour⟩
  have hallowed : ¬ (askHasColour a = true ∧ (groupPolicy s (account s i).group).colourAllowed = false) := by
    rw [askHasColour_iff hlegal]
    rintro ⟨hpos, hno⟩
    rcases hgroup with h | h
    · omega
    · simp [h] at hno
  have hd : feedDecision a s = (.feedOk, .none) := by
    rw [feedDecision_running hask]
    simp [hactive, AccountState.stopReason, hlost, hstandby, Nat.not_le.mpr hroom, hunproven, hfits, hallowed]
  rw [exec_feedAsk hup hidle hlegal, takeAsk_new hnew hd]
  refine ⟨_, rfl, ?_, fun n hn => ?_, ?_, ?_, ?_, ?_⟩
  · exact (sheetAt_grantSheet a s a.sheet).trans (if_pos rfl)
  · exact (sheetAt_grantSheet a s n).trans (if_neg hn)
  · simp [sheetLink_sendAnswer, askEffect, sheetLink_grantSheet]
  · show Table.find (grantSheet a s).jobUnit.jobs k = _
    rw [grantSheet_job hjob, find_putJob, if_pos rfl, commitSheet_running hrun]
  · exact onlyJob_congr (onlyJob_putJob k (commitSheet a j) s) (grantSheet_job hjob)
  · exact parts_comp (parts_grantSheet a s) (parts_sendAnswer _ _) (by decide) (by decide)

/-! ### The halt for the account (R66) -/

theorem jobOfTag_spec {s : State} {tag k : Nat} {j : Job} (h : jobOfTag s tag = some (k, j)) :
    (k, j) ∈ s.jobUnit.jobs ∧ j.tag = tag := by
  obtain ⟨hmem, htag⟩ := Table.search_some h
  exact ⟨hmem, by simpa using htag⟩

/-- The owner's state gives the reason of the stop request. -/
theorem haltForAccount_stops {tag k i : Nat} {j : Job} {why : StopReason} {s : State}
    (hjob : jobOfTag s tag = some (k, j)) (howner : j.owner = some i)
    (hwhy : (account s i).state.stopReason = some why) : haltForAccount tag s = stopTag tag why s := by
  simp only [haltForAccount, hjob, howner, Option.getD_some, hwhy]

/-- A stop request changes the job table alone of the job unit. -/
theorem jobUnit_stopJobs (p : Job → Bool) (why : StopReason) (s : State) :
    (stopJobs p why s).jobUnit = { s.jobUnit with jobs := (stopJobs p why s).jobUnit.jobs } := by
  simp only [stopJobs, raiseIf]
  split <;> rfl

/-- A stop request for the tag of a running job stops it, and no job of another tag. -/
theorem stopTag_running {tag k : Nat} {j : Job} {why : StopReason} {s : State}
    (hjob : jobOfTag s tag = some (k, j)) (hfind : Table.find s.jobUnit.jobs k = some j)
    (hrun : j.state = .ready ∨ j.state = .active) :
    Table.find (stopTag tag why s).jobUnit.jobs k = some { j with state := .stopped, stopReason := some why } ∧
    (∀ k' j', Table.find s.jobUnit.jobs k' = some j' → j'.tag ≠ tag →
      Table.find (stopTag tag why s).jobUnit.jobs k' = some j') ∧
    raised [.jobStopped] s (stopTag tag why s) := by
  obtain ⟨hmem, htag⟩ := jobOfTag_spec hjob
  have hrunning : j.running = true := by rcases hrun with h | h <;> simp [Job.running, h]
  refine ⟨?_, fun k' j' hfind' htag' => ?_, ?_⟩
  · rw [stopTag, find_stopJobs, hfind]
    simp [stoppedFor, hrunning, htag]
  · rw [stopTag, find_stopJobs, hfind']
    simp [stoppedFor, htag']
  · have hany : (s.jobUnit.jobs.any fun e => e.2.running && e.2.tag == tag) = true :=
      List.any_eq_true.mpr ⟨(k, j), hmem, by simp [hrunning, htag]⟩
    have := raised_stopJobs (fun j => j.tag == tag) why s
    rwa [if_pos hany] at this

/-- The owner who may not spend halts the ask and stops the job. -/
theorem ask_halted_for_account {a : FeedAsk} {k i : Nat} {j : Job} {why : StopReason} {s : State}
    (hup : down s = false) (hidle : linkIdle s) (hlegal : feedAskLegal a = true) (hask : AskOfJob a k i j s)
    (hfind : Table.find s.jobUnit.jobs k = some j) (hwhy : (account s i).state.stopReason = some why) :
    ∃ t, exec (.feedAsk a) s = .next t ∧
      t.sheetLink = { s.sheetLink with
        answers := s.sheetLink.answers ++ [feedReplyFrame a.sheet a.tag .feedHalt .account false]
        receiver := .idle } ∧
      Table.find t.jobUnit.jobs k = some { j with state := .stopped, stopReason := some why } ∧
      (∀ k' j', Table.find s.jobUnit.jobs k' = some j' → j'.tag ≠ a.tag.toNat →
        Table.find t.jobUnit.jobs k' = some j') ∧
      t.jobUnit = { s.jobUnit with jobs := t.jobUnit.jobs } ∧
      raised [.jobStopped] s t ∧ onlyParts [.sheet, .job, .notice] s t := by
  have hd : feedDecision a s = (.feedHalt, .account) := by
    rw [feedDecision_running hask, hwhy]; rfl
  have ht : exec (.feedAsk a) s = .next (sendAnswer (feedReplyFrame a.sheet a.tag .feedHalt .account false)
      (stopTag a.tag.toNat why s)) := by
    rw [exec_feedAsk hup hidle hlegal, takeAsk_new hask.isNew hd, ← haltForAccount_stops hask.job hask.owner hwhy]
    rfl
  have hlink : (stopTag a.tag.toNat why s).sheetLink = s.sheetLink := parts_stopTag _ _ s .sheet (by decide)
  obtain ⟨hstopped, hothers, hraised⟩ := stopTag_running (why := why) hask.job hfind hask.running
  refine ⟨_, ht, ?_, hstopped, hothers, ?_, hraised, ?_⟩
  · rw [sheetLink_sendAnswer, hlink]
  · exact jobUnit_stopJobs _ _ s
  · exact parts_comp (parts_stopTag _ _ s) (parts_sendAnswer _ _) (by decide) (by decide)

/-- Settles O26: each check is reached where those before it let the ask pass. -/
theorem refusedAskGivesTheFirstReason : Obligations.RefusedAskGivesTheFirstReason := by
  intro s a k i j hup hidle hlegal hnew
  have refused {reply reason} := exec_refusedAsk (reply := reply) (reason := reason) hup hidle hlegal hnew
  refine ⟨fun hjob => ?_, fun hjob hend => ?_, fun hjob hprint hstop => ?_, fun hjob hfind hprint hrun howner => ?_⟩
  · exact refused (feedDecision_noJob hnew hjob) (by decide) (by decide) (by decide)
  · exact refused (feedDecision_ended hnew hjob hend) (by decide) (by decide) (by decide)
  · exact refused (feedDecision_stopped hnew hjob hprint hstop) (by decide) (by decide) (by decide)
  have hask : AskOfJob a k i j s := ⟨hnew, hjob, hprint, hrun, howner⟩
  have hchecks := feedDecision_running hask
  refine ⟨fun why hwhy => ?_, fun hactive => ?_⟩
  · refine ask_halted_for_account hup hidle hlegal hask hfind ?_
    rcases hwhy with ⟨⟨w, hs⟩, rfl⟩ | ⟨hs, rfl⟩ <;> rw [hs] <;> rfl
  rw [hactive, if_neg (by decide)] at hchecks
  refine ⟨fun hlost => ?_, fun hfound => ?_⟩
  · rw [if_pos ((maskMeets_iff ..).mpr hlost)] at hchecks
    exact refused hchecks (by decide) (by decide) (by decide)
  rw [if_neg (by simp [maskMeets_eq_false hfound])] at hchecks
  refine ⟨fun hstandby => ?_, fun hstandby hfull => ?_, fun hstandby hroom hbusy => ?_, fun hstandby hroom hpermit => ?_⟩
  · rw [if_pos hstandby] at hchecks
    exact refused hchecks (by decide) (by decide) (by decide)
  all_goals rw [if_neg (by simp [hstandby])] at hchecks
  · rw [if_pos hfull] at hchecks
    exact refused hchecks (by decide) (by decide) (by decide)
  all_goals rw [if_neg (by omega)] at hchecks
  · obtain ⟨st, hmask, hstate⟩ := hbusy
    have hunproven : (station s st).state.unproven = true := by rcases hstate with h | h | h <;> rw [h] <;> rfl
    rw [if_pos ((maskMeets_iff ..).mpr ⟨st, hmask, hunproven⟩)] at hchecks
    exact refused hchecks (by decide) (by decide) (by decide)
  rw [if_neg (by simp [(maskMeets_of_permits hpermit).2])] at hchecks
  refine ⟨fun hspent => ?_, fun hmono hcolour hneeds hno => ?_⟩
  · have hshort : needFits a j = false := by
      refine Bool.eq_false_iff.mpr fun hfits => ?_
      have := (needFits_iff a j).mp hfits
      omega
    rw [if_pos hshort] at hchecks
    rw [exec_feedAsk hup hidle hlegal, takeAsk_new hnew hchecks]
    rfl
  · rw [if_neg (by simp [(needFits_iff a j).mpr ⟨hmono, hcolour⟩]),
      if_pos ⟨(askHasColour_iff hlegal).mpr hneeds, hno⟩] at hchecks
    exact refused hchecks (by decide) (by decide) (by decide)

end Sys2Proof.SheetAccounting

namespace Sys2Proof.SheetAccounting
open Sys2Proof.Machine

/-! SUPPORT. The receiver: bytes in pieces and whole frames, good and bad (R55, R56, R61, R73, log 28). -/

/-! ### Bytes that arrive -/

theorem exec_badFrame {s : State} (hup : down s = false) (bytes : List Byte) :
    exec (.badFrame bytes) s = .next (receive bytes s) := congrArg _ (whenUp_of_up hup)

theorem exec_frameGapTimeout {s : State} (hup : down s = false) (bytes : List Byte) :
    exec (.frameGapTimeout bytes) s = .next (gapTimeout (receive bytes s)) := congrArg _ (whenUp_of_up hup)

/-- The first bytes of a frame that have been gathered might as well arrive with those behind them. -/
theorem receive_behind {s : State} {sofar bytes : List Byte} (hgather : s.sheetLink.receiver = .gathering sofar)
    (hpart : partlyGathered sofar = true) :
    receive bytes s = receive (sofar ++ bytes) { s with sheetLink := { s.sheetLink with receiver := .idle } } := by
  have hs : receive sofar { s with sheetLink := { s.sheetLink with receiver := .idle } } = s := by
    rw [receive_partly rfl hpart, ← hgather]
  rw [receive_append, hs]

/-- A bad frame leaves the receiver IDLE, whatever it was doing. -/
theorem badFrame_receiver (s : State) (r : Receiver) :
    badFrame { s with sheetLink := { s.sheetLink with receiver := r } } = badFrame s := rfl

theorem receive_bad {s : State} {bytes : List Byte} (hidle : linkIdle s) (hgathered : gathered bytes = true)
    (hbad : frameGood bytes = false) : receive bytes s = badFrame s := by
  rw [receive_gathered hidle hgathered, takeFrame]
  exact if_pos hbad

/-- The time that passes breaks off the frame being gathered. -/
theorem gapTimeout_gathering {s : State} {sofar : List Byte} (h : s.sheetLink.receiver = .gathering sofar) :
    gapTimeout s = badFrame s := if_neg (by simp [h])

/-! ### Fields out of range (R61, R73) -/

theorem feedAskLegal_eq_false {a : FeedAsk}
    (h : a.tag = 0 ∨ (a.sides ≠ 1 ∧ a.sides ≠ 2) ∨ (a.size ≠ 1 ∧ a.size ≠ 2) ∨ 1 < a.class1.toNat ∨
      1 < a.class2.toNat ∨ (a.sides = 1 ∧ a.class2 ≠ 0) ∨ a.mask = 0 ∨ 31 < a.mask.toNat) :
    feedAskLegal a = false := by
  refine Bool.eq_false_iff.mpr fun hlegal => ?_
  have hclass1 := class1_of_legal hlegal
  have hclass2 := class2_of_legal hlegal
  simp only [feedAskLegal, Bool.and_eq_true, Bool.or_eq_true, beq_iff_eq, bne_iff_ne, ne_eq, decide_eq_true_eq]
    at hlegal
  obtain ⟨⟨⟨⟨⟨⟨htag, hsides⟩, hsize⟩, -⟩, hduplex⟩, hmask⟩, hfive⟩ := hlegal
  rcases h with h | h | h | h | h | h | h | h
  · exact htag h
  · exact hsides.elim h.1 h.2
  · exact hsize.elim h.1 h.2
  · rcases hclass1 with hc | hc <;> rw [hc] at h <;> exact absurd h (by decide)
  · rcases hclass2 with hc | hc <;> rw [hc] at h <;> exact absurd h (by decide)
  · rcases hduplex with hc | ⟨-, hs⟩
    · exact h.2 hc
    · exact absurd (h.1.symm.trans hs) (by decide)
  · exact hmask h
  · omega

theorem dosesLegal_eq_false {d : PerStation (BitVec 16)} {st : Station} (h : 1000 < (d.get st).toNat) :
    dosesLegal d = false := by
  rw [dosesLegal, (any_iff d _).mpr ⟨st, decide_eq_true h⟩]
  rfl

theorem reportLegal_eq_false {r : SheetReport} {st : Station}
    (h : r.tag = 0 ∨ 1000 < (r.doses1.get st).toNat ∨ 1000 < (r.doses2.get st).toNat) : reportLegal r = false := by
  rcases h with h | h | h
  · simp [reportLegal, h]
  · simp [reportLegal, dosesLegal_eq_false h]
  · simp [reportLegal, dosesLegal_eq_false h]

theorem jammedLegal_eq_false {imaged : Byte} {r : SheetReport} {st : Station}
    (h : r.tag = 0 ∨ 1 < imaged.toNat ∨ 1000 < (r.doses1.get st).toNat ∨ 1000 < (r.doses2.get st).toNat) :
    jammedLegal imaged r = false := by
  by_cases hi : 1 < imaged.toNat
  · refine Bool.eq_false_iff.mpr fun hlegal => ?_
    simp only [jammedLegal, Bool.and_eq_true, Bool.or_eq_true, beq_iff_eq] at hlegal
    rcases hlegal.1 with hz | hz <;> rw [hz] at hi <;> exact absurd hi (by decide)
  · rw [jammedLegal, reportLegal_eq_false (h.imp_right fun h => h.resolve_left hi), Bool.and_false]

/-! ### Good frames, by their kind (R216) -/

/-- The body that the check of a frame looks at is the body that is taken. -/
theorem frameBody_eq (bytes : List Byte) : ((bytes.drop 1).take (bytes.length - 3)).drop 2 = frameBody bytes := by
  rw [frameBody, List.drop_take, List.drop_drop, Nat.sub_sub]

/-- A good frame has a good body of its kind. -/
theorem bodyGood_of_frameGood {bytes : List Byte} (h : frameGood bytes = true) :
    bodyGood (bytes.getD 1 0) (frameBody bytes) = true := by
  simp only [frameGood, Bool.and_eq_true, frameBody_eq] at h
  exact h.2

theorem feedAskLegal_of_bodyGood {kind : Byte} {body : List Byte} (hk : kind = 1) (h : bodyGood kind body = true) :
    feedAskLegal (feedAskOf body) = true := by
  subst hk
  have hfields : (body.length == 8 && feedAskLegal (feedAskOf body)) = true := h
  exact (Bool.and_eq_true_iff.mp hfields).2

theorem reportLegal_of_bodyGood {kind : Byte} {body : List Byte} (hk : kind = 2) (h : bodyGood kind body = true) :
    reportLegal (reportOf body 3) = true := by
  subst hk
  have hfields : (body.length == 23 && reportLegal (reportOf body 3)) = true := h
  exact (Bool.and_eq_true_iff.mp hfields).2

theorem jammedLegal_of_bodyGood {kind : Byte} {body : List Byte} (hk : kind = 3) (h : bodyGood kind body = true) :
    body.length = 24 ∧ jammedLegal (body.getD 3 0) (reportOf body 4) = true := by
  subst hk
  have hfields : (body.length == 24 && jammedLegal (body.getD 3 0) (reportOf body 4)) = true := h
  simpa using hfields

/-- The imaged flag of a JAMMED frame is its seventh byte. -/
theorem imaged_of_body {bytes : List Byte} (h : (frameBody bytes).length = 24) :
    (frameBody bytes).getD 3 0 = bytes.getD 6 0 := by
  have hlong : 3 < bytes.length - 5 := by
    simp only [frameBody, List.length_take, List.length_drop] at h
    omega
  simp [frameBody, List.getD, hlong]

/-- A good frame that arrives in IDLE is taken as the event that its bytes spell. -/
theorem exec_goodFrame {s : State} {bytes : List Byte} (hup : down s = false) (hidle : linkIdle s)
    (hgathered : gathered bytes = true) (hgood : frameGood bytes = true) :
    (bytes.getD 1 0 = 1 → exec (.badFrame bytes) s = exec (.feedAsk (feedAskOf (frameBody bytes))) s) ∧
    (bytes.getD 1 0 = 2 → exec (.badFrame bytes) s = exec (.delivered (reportOf (frameBody bytes) 3)) s) ∧
    (bytes.getD 1 0 = 3 →
      exec (.badFrame bytes) s = exec (.jammed (bytes.getD 6 0) (reportOf (frameBody bytes) 4)) s) := by
  have hbody := bodyGood_of_frameGood hgood
  have htaken : exec (.badFrame bytes) s = .next (takeFrame bytes s) := by
    rw [exec_badFrame hup, receive_gathered hidle hgathered]
  have hnotbad : ¬ frameGood bytes = false := by simp [hgood]
  rw [htaken]
  refine ⟨fun hk => ?_, fun hk => ?_, fun hk => ?_⟩
  · rw [exec_feedAsk hup hidle (feedAskLegal_of_bodyGood hk hbody)]
    simp only [takeFrame, if_neg hnotbad, hk]
    rfl
  · rw [exec_delivered hup hidle (reportLegal_of_bodyGood hk hbody)]
    simp only [takeFrame, if_neg hnotbad, hk]
    rfl
  · obtain ⟨hlength, hlegal⟩ := jammedLegal_of_bodyGood hk hbody
    rw [imaged_of_body hlength] at hlegal
    have hjam : exec (.jammed (bytes.getD 6 0) (reportOf (frameBody bytes) 4)) s =
        .next (takeJammed (bytes.getD 6 0) (reportOf (frameBody bytes) 4) s) := by
      show Host.Outcome.next (whenUp (receive (jammedFrame _ _)) s) = _
      rw [whenUp_of_up hup, receive_jammedFrame hidle, if_pos hlegal]
    rw [hjam]
    simp only [takeFrame, if_neg hnotbad, hk, imaged_of_body hlength]
    rfl

/-! ### The rows that carry frames (log 28) -/

/-- Bytes in two pieces arrive as one, whether the part is up or down. -/
theorem exec_badFrame_append (s : State) (bytes more : List Byte) :
    ∃ t, exec (.badFrame bytes) s = .next t ∧ exec (.badFrame (bytes ++ more)) s = exec (.badFrame more) t := by
  refine ⟨whenUp (receive bytes) s, rfl, ?_⟩
  cases hdown : down s with
  | true =>
    have hstays (f : State → State) : whenUp f s = s := by simp [whenUp, hdown]
    rw [hstays]
    exact congrArg Host.Outcome.next ((hstays _).trans (hstays _).symm)
  | false =>
    rw [whenUp_of_up hdown, exec_badFrame hdown, exec_badFrame ((down_receive bytes s).trans hdown), receive_append]

/-- The doses of a report, station by station. -/
theorem packDoses_eq (d : PerStation (BitVec 16)) :
    packDoses d = Station.list.flatMap fun st => le 2 (d.get st).toNat := by
  simp [packDoses, Station.list, PerStation.get]

/-- FEED_ASK, DELIVERED and JAMMED are the bytes of their frames. -/
theorem exec_frames (s : State) :
    (∀ a : FeedAsk, exec (.feedAsk a) s = exec (.badFrame (feedAskFrame a)) s) ∧
    (∀ r : SheetReport, exec (.delivered r) s = exec (.badFrame (deliveredFrame r)) s) ∧
    (∀ (imaged : Byte) (r : SheetReport),
      exec (.jammed imaged r) s = exec (.badFrame (jammedFrame imaged r)) s) :=
  ⟨fun _ => rfl, fun _ => rfl, fun _ _ => rfl⟩

/-- What a bad frame leaves: one more in the count, the notice, and the receiver IDLE. -/
theorem badFrame_counted (s : State) :
    (badFrame s).sheetLink =
      { s.sheetLink with badFrames := min 255 (s.sheetLink.badFrames + 1), receiver := .idle } ∧
    raised [.sheetLinkBad] s (badFrame s) ∧ onlyParts [.sheet, .notice] s (badFrame s) :=
  ⟨rfl, raised_raise .sheetLinkBad _, parts_badFrame s⟩

/-- Settles O30: every bad frame comes to `badFrame`, and the receiver's rules say the rest. -/
theorem badFrameIsCountedAndDiscarded : Obligations.BadFrameIsCountedAndDiscarded := by
  refine ⟨fun s i hup h => ?_, fun s bytes hup hidle => ?_, fun s sofar bytes hup hgather hpart => ?_,
    exec_badFrame_append, fun s => ?_⟩
  · refine ⟨badFrame s, ?_, badFrame_counted s⟩
    rcases h with ⟨bytes, rfl, hidle, hgathered, hbad⟩ | ⟨sofar, bytes, rfl, hgather, hpart, hgathered, hbad⟩ |
      ⟨bytes, rfl, hidle, hpart⟩ | ⟨sofar, rfl, hgather⟩ | ⟨a, rfl, hidle, hrange⟩ | ⟨r, st, rfl, hidle, hrange⟩ |
      ⟨r, st, imaged, rfl, hidle, hrange⟩
    · rw [exec_badFrame hup, receive_bad hidle hgathered hbad]
    · rw [exec_badFrame hup, receive_behind hgather hpart, receive_bad rfl hgathered hbad, badFrame_receiver]
    · rw [exec_frameGapTimeout hup, receive_partly hidle hpart, gapTimeout_gathering rfl, badFrame_receiver]
    · exact (exec_frameGapTimeout hup []).trans (congrArg _ (gapTimeout_gathering hgather))
    · rw [(exec_frames s).1, exec_badFrame hup, receive_feedAskFrame hidle, feedAskLegal_eq_false hrange]
      rfl
    · rw [(exec_frames s).2.1, exec_badFrame hup, receive_deliveredFrame hidle, reportLegal_eq_false hrange]
      rfl
    · rw [(exec_frames s).2.2, exec_badFrame hup, receive_jammedFrame hidle, jammedLegal_eq_false hrange]
      rfl
  · refine ⟨fun b hb => ?_, ?_, ?_, fun hpart => ?_, exec_goodFrame hup hidle⟩
    · rw [exec_badFrame hup, exec_badFrame hup]
      exact congrArg (fun t => Host.Outcome.next (receive bytes t)) (receiveByte_discards hidle hb)
    · exact exec_badFrame hup []
    · exact (exec_frameGapTimeout hup []).trans (congrArg _ (if_pos hidle))
    · rw [exec_badFrame hup, receive_partly hidle hpart]
  · rw [exec_badFrame hup, receive_behind hgather hpart]
    exact (exec_badFrame (s := { s with sheetLink := { s.sheetLink with receiver := .idle } }) hup _).symm
  · obtain ⟨hask, hdelivered, hjammed⟩ := exec_frames s
    refine ⟨hask, fun r => ?_, fun imaged r => ?_⟩
    · rw [hdelivered, deliveredFrame, packDoses_eq, packDoses_eq]
    · rw [hjammed, jammedFrame, packDoses_eq, packDoses_eq]

end Sys2Proof.SheetAccounting

namespace Sys2Proof.SheetAccounting
open Sys2Proof.Machine

/-! SUPPORT. Several updates of one account in one event, the settlement of a PRINT job, and the lapse of a sheet
(R4, R26, R42, R49, R60, R78). -/

/-! ### Several updates of one account (R4, R207, R208) -/

/-- The fields of an account that R4 names. -/
def imageFields (a : Account) : Account := { a with failed := 0, openJobs := 0, heldScans := 0, preserved := false }

theorem sameForImage_iff (a b : Account) : sameForImage a b = true ↔ imageFields a = imageFields b := by
  cases a
  cases b
  simp only [sameForImage, imageFields, Bool.and_eq_true, beq_iff_eq, Account.mk.injEq, and_true]
  constructor
  · rintro ⟨⟨⟨⟨⟨⟨⟨⟨⟨hbalance, hheld⟩, hstate⟩, hgroup⟩, hunlimited⟩, hlifetime⟩, hsat⟩, hclip⟩, hnumber⟩, hdigest⟩
    exact ⟨hstate, hnumber, hgroup, hunlimited, hbalance, hheld, hlifetime, hsat, hclip, hdigest⟩
  · rintro ⟨hstate, hnumber, hgroup, hunlimited, hbalance, hheld, hlifetime, hsat, hclip, hdigest⟩
    exact ⟨⟨⟨⟨⟨⟨⟨⟨⟨hbalance, hheld⟩, hstate⟩, hgroup⟩, hunlimited⟩, hlifetime⟩, hsat⟩, hclip⟩, hnumber⟩, hdigest⟩

/-- Two changes leave the fields of R4 as they were where each does, if the second undoes nothing of the first. -/
theorem sameForImage_steps {a b c : Account} (h : sameForImage a c = true → sameForImage a b = true) :
    (sameForImage a b && sameForImage b c) = sameForImage a c := by
  rw [Bool.eq_iff_iff, Bool.and_eq_true]
  refine ⟨fun ⟨hab, hbc⟩ => ?_, fun hac => ⟨h hac, ?_⟩⟩
  · rw [sameForImage_iff] at *
    exact hab.trans hbc
  · have hab := h hac
    rw [sameForImage_iff] at *
    exact hab.symm.trans hac

/-- An event turns the account at an index into `b`, but for its preserved flag, and changes nothing else of the
account unit; of the retention unit, the walk's marks (R4, R207, R208). -/
def accountGoes (i : Nat) (b : Account) (s t : State) : Prop :=
  account t i = afterEvent (account s i) b ∧ onlyAccount i s t

theorem accountGoes_updateAccount (i : Nat) (f : Account → Account) (s : State) :
    accountGoes i (f (account s i)) s (updateAccount i f s) :=
  ⟨account_afterUpdate i f s, onlyAccount_updateAccount i f s⟩

/-- The event is seen in the account unit and the retention unit alone. -/
theorem accountGoes_congr {i : Nat} {b : Account} {s s' t t' : State} (h : accountGoes i b s t)
    (ha : s'.accountUnit = s.accountUnit) (hr : s'.retentionUnit = s.retentionUnit)
    (ha' : t'.accountUnit = t.accountUnit) (hr' : t'.retentionUnit = t.retentionUnit) : accountGoes i b s' t' := by
  unfold accountGoes onlyAccount account at *
  rw [ha, hr, ha', hr']
  exact h

theorem accountChanged_twice (i : Nat) (w : Walk) : (w.accountChanged i).accountChanged i = w.accountChanged i := by
  have twice (marked now : Bool) : (marked || now || now) = (marked || now) := by cases marked <;> cases now <;> rfl
  unfold Walk.accountChanged
  congr 1 <;> exact twice _ _

/-- One account's event followed by another of the same account is one event of it, if the second undoes nothing of
the first. -/
theorem accountGoes_trans {i : Nat} {b c : Account} {s t u : State} (h : accountGoes i b s t)
    (h' : accountGoes i c t u) (hkeep : sameForImage (account s i) c = true → sameForImage (account s i) b = true) :
    accountGoes i c s u := by
  obtain ⟨hb, hothers, hgroups, hpreserved, hwalk⟩ := h
  obtain ⟨hc, hothers', hgroups', hpreserved', hwalk'⟩ := h'
  have hsame := sameForImage_steps hkeep
  have hfirst : sameForImage (account s i) (account t i) = sameForImage (account s i) b := by rw [hb]; rfl
  have hsecond : sameForImage (account t i) c = sameForImage b c := by rw [hb]; rfl
  have hlast : sameForImage (account t i) (account u i) = sameForImage b c := by rw [hc, ← hsecond]; rfl
  have hwhole : account u i = afterEvent (account s i) c := by
    rw [hc, afterEvent, afterEvent, hsecond, hb, ← hsame]
    simp only [afterEvent]
    cases sameForImage (account s i) b <;> simp
  refine ⟨hwhole, fun j hj => (hothers' j hj).trans (hothers j hj), hgroups'.trans hgroups,
    hpreserved'.trans hpreserved, ?_⟩
  have hends : sameForImage (account s i) (account u i) = sameForImage (account s i) c := by rw [hwhole]; rfl
  rw [hwalk', hwalk, hlast, hfirst, hends, ← hsame]
  cases sameForImage (account s i) b <;> cases sameForImage b c <;>
    simp [Option.map_map, Function.comp_def, accountChanged_twice]

/-! ### The owner at a settlement (R6, R7, R26, R49) -/

/-- The owner of a PRINT job that settles: the units not charged return, and the last open job of a RETIRING owner
frees it. -/
def settledOwner (a : Account) (units : Amounts) : Account :=
  if a.state = .retiring ∧ a.openJobs ≤ 1 then .retired
  else { a.giveBack units with openJobs := a.openJobs - 1 }

theorem giveBack_keeps (a : Account) (units : Amounts) :
    (a.giveBack units).state = a.state ∧ (a.giveBack units).openJobs = a.openJobs ∧
    (a.giveBack units).lifetime = a.lifetime ∧ (a.giveBack units).countSaturated = a.countSaturated ∧
    ((a.giveBack units).held = a.held ∨ (a.giveBack units).held = a.held.sub units) := by
  unfold Account.giveBack
  split
  · exact ⟨rfl, rfl, rfl, rfl, .inl rfl⟩
  · exact ⟨rfl, rfl, rfl, rfl, .inr rfl⟩

/-- The preserved flag plays no part in a settlement. -/
theorem settledOwner_preserved (a : Account) (p : Bool) (units : Amounts) :
    ∃ q, settledOwner { a with preserved := p } units = { settledOwner a units with preserved := q } := by
  unfold settledOwner
  by_cases h : a.state = .retiring ∧ a.openJobs ≤ 1
  · exact ⟨false, by rw [if_pos h, if_pos h]; rfl⟩
  · refine ⟨p, ?_⟩
    rw [if_neg h, if_neg h]
    by_cases hu : a.unlimited = true <;> simp [Account.giveBack, Account.credit, hu]

theorem sub_of_sub_eq {h u v : Amounts} (hs : (h.sub u).sub v = h ∨ h.sub u = h) : h.sub u = h := by
  obtain ⟨mono, colour, scan⟩ := h
  simp only [Amounts.sub, Amounts.map2, Amounts.mk.injEq] at *
  omega

/-- A settlement undoes nothing of the charge before it: held falls in both, and the counts stay. -/
theorem charge_not_undone (a : Account) (units counts back : Amounts)
    (h : sameForImage a (settledOwner (a.charge units counts) back) = true) :
    sameForImage a (a.charge units counts) = true := by
  obtain ⟨hstate, -, hlifetime, hsat, hheld⟩ := giveBack_keeps (a.charge units counts) back
  unfold settledOwner at h
  by_cases hretires : (a.charge units counts).state = .retiring ∧ (a.charge units counts).openJobs ≤ 1
  · rw [if_pos hretires, sameForImage_iff] at h
    have hfree := congrArg Account.state h
    have hwas : a.state = .retiring := hretires.1
    simp [imageFields, hwas, Account.retired, Account.free] at hfree
  · rw [if_neg hretires, sameForImage_iff] at h
    have hheld' : a.held = ((a.charge units counts).giveBack back).held := (congrArg Account.held h :)
    have hlife : a.lifetime = (a.charge units counts).lifetime := (congrArg Account.lifetime h :).trans hlifetime
    have hcount : a.countSaturated = (a.charge units counts).countSaturated :=
      (congrArg Account.countSaturated h :).trans hsat
    have hkept : (a.charge units counts).held = a.held := by
      cases hu : a.unlimited with
      | true => simp [Account.charge, hu]
      | false =>
        have hcharged : (a.charge units counts).held = a.held.sub units := by simp [Account.charge, hu]
        rw [hcharged]
        rw [hcharged] at hheld
        exact sub_of_sub_eq (hheld.symm.imp (fun e => e.symm.trans hheld'.symm) (fun e => e.symm.trans hheld'.symm))
    rw [sameForImage_iff]
    simp only [imageFields, Account.mk.injEq, and_true]
    exact ⟨rfl, rfl, rfl, rfl, rfl, hkept.symm, hlife, hcount, rfl, rfl⟩

/-! ### Settlement of a PRINT job (R42, R49) -/

theorem settleIfDone_open {k : Nat} {j : Job} {s : State} (hfind : Table.find s.jobUnit.jobs k = some j)
    (h : ¬ (j.state = .closing ∧ j.committed = .zero)) : settleIfDone k s = s := by
  simp only [settleIfDone, hfind, Job.idle, beq_iff_eq]
  exact if_neg h

theorem settleIfDone_done {k : Nat} {j : Job} {s : State} (hfind : Table.find s.jobUnit.jobs k = some j)
    (hclosing : j.state = .closing) (hzero : j.committed = .zero) : settleIfDone k s = settle k s := by
  simp only [settleIfDone, hfind, Job.idle, beq_iff_eq]
  exact if_pos ⟨hclosing, hzero⟩

/-- The owner's account once the job's units are back and the job is no longer open. -/
def ownerPaidBack (i : Nat) (units : Amounts) (s : State) : State :=
  updateAccount i (fun a => { a with openJobs := a.openJobs - 1 }) (updateAccount i (fun a => a.giveBack units) s)

theorem ownerPaidBack_goes (i : Nat) (units : Amounts) (s : State) :
    accountGoes i { (account s i).giveBack units with openJobs := (account s i).openJobs - 1 } s
      (ownerPaidBack i units s) := by
  have hback := accountGoes_updateAccount i (fun a => a.giveBack units) s
  have hopen := accountGoes_updateAccount i (fun a => { a with openJobs := a.openJobs - 1 })
    (updateAccount i (fun a => a.giveBack units) s)
  obtain ⟨haccount, honly⟩ := accountGoes_trans hback hopen (by rw [hback.1]; exact id)
  refine ⟨haccount.trans ?_, honly⟩
  rw [hback.1, ← (giveBack_keeps (account s i) units).2.1]
  rfl

theorem parts_ownerPaidBack (i : Nat) (units : Amounts) (s : State) :
    onlyParts [.account, .retention] s (ownerPaidBack i units s) :=
  parts_trans (parts_updateAccount i _ s) (parts_updateAccount i _ _)

theorem completeRetirement_goes (i : Nat) (s : State) :
    accountGoes i (if (account s i).state = .retiring ∧ (account s i).openJobs = 0 then .retired else account s i) s
      (completeRetirement i s) := by
  simp only [completeRetirement]
  split
  · exact accountGoes_updateAccount i (fun _ => .retired) s
  · have hsame : sameForImage (account s i) (account s i) = true := (sameForImage_iff _ _).mpr rfl
    refine ⟨?_, fun _ _ => rfl, rfl, rfl, ?_⟩
    · rw [afterEvent, hsame]; rfl
    · rw [hsame]; rfl

/-- A PRINT job settled, and JOB_SETTLED raised, before its owner's retirement is looked at. -/
def jobEnded (k i : Nat) (j : Job) (s : State) : State :=
  raise .jobSettled (putJob k { j with state := .settled, owner := none }
    (ownerPaidBack i (j.reserved.sub j.charged) s))

theorem settle_eq {k i : Nat} {j : Job} {s : State} (hfind : Table.find s.jobUnit.jobs k = some j)
    (hprint : j.kind = .print) (howner : j.owner = some i) :
    settle k s = completeRetirement i (jobEnded k i j s) := by
  simp [settle, hfind, hprint, howner, jobEnded, ownerPaidBack]

theorem jobUnit_jobEnded (k i : Nat) (j : Job) (s : State) :
    (jobEnded k i j s).jobUnit = (putJob k { j with state := .settled, owner := none } s).jobUnit := by
  have hpaid : (ownerPaidBack i (j.reserved.sub j.charged) s).jobUnit = s.jobUnit :=
    parts_ownerPaidBack i _ s .job (by decide)
  simp only [jobEnded, raise_jobUnit, putJob, hpaid]

theorem raised_jobEnded (k i : Nat) (j : Job) (s : State) : raised [.jobSettled] s (jobEnded k i j s) := by
  have hpaid : (ownerPaidBack i (j.reserved.sub j.charged) s).noticeUnit = s.noticeUnit :=
    parts_ownerPaidBack i _ s .notice (by decide)
  have hquiet := raised_refl s (putJob k { j with state := .settled, owner := none }
    (ownerPaidBack i (j.reserved.sub j.charged) s)) (by rw [putJob_noticeUnit, hpaid])
  exact raised_trans hquiet (raised_raise .jobSettled _)

theorem parts_jobEnded (k i : Nat) (j : Job) (s : State) :
    onlyParts [.account, .job, .notice, .retention] s (jobEnded k i j s) := by
  have hjob := parts_comp (l := [.account, .job, .retention]) (parts_ownerPaidBack i (j.reserved.sub j.charged) s)
    (parts_putJob k { j with state := .settled, owner := none } _) (by decide) (by decide)
  exact parts_comp hjob (parts_raise .jobSettled _) (by decide) (by decide)

theorem jobEnded_goes (k i : Nat) (j : Job) (s : State) :
    accountGoes i
      { (account s i).giveBack (j.reserved.sub j.charged) with openJobs := (account s i).openJobs - 1 } s
      (jobEnded k i j s) := by
  refine accountGoes_congr (ownerPaidBack_goes i (j.reserved.sub j.charged) s) rfl rfl ?_ ?_
  · simp only [jobEnded, raise_accountUnit, putJob_accountUnit]
  · simp only [jobEnded, raise_retentionUnit, putJob_retentionUnit]

/-- The owner of a PRINT job that settles is paid back, and freed where it was RETIRING and the job its last. -/
theorem retired_goes (k i : Nat) (j : Job) (s : State) :
    accountGoes i (settledOwner (account s i) (j.reserved.sub j.charged)) s
      (completeRetirement i (jobEnded k i j s)) := by
  have hended := jobEnded_goes k i j s
  have hlast := completeRetirement_goes i (jobEnded k i j s)
  have hstate : (account (jobEnded k i j s) i).state = (account s i).state := by
    rw [hended.1]; exact (giveBack_keeps _ _).1
  have hopen : (account (jobEnded k i j s) i).openJobs = (account s i).openJobs - 1 := by rw [hended.1]; rfl
  rw [hstate, hopen] at hlast
  simp only [Nat.sub_eq_zero_iff_le] at hlast
  unfold settledOwner
  split
  · rename_i hr
    rw [if_pos hr] at hlast
    refine accountGoes_trans hended hlast fun hsame => ?_
    have hfree := congrArg Account.state ((sameForImage_iff _ _).mp hsame)
    simp [imageFields, hr.1, Account.retired, Account.free] at hfree
  · rename_i hr
    rw [if_neg hr] at hlast
    obtain ⟨haccount, honly⟩ := accountGoes_trans hended hlast (by rw [hended.1]; exact id)
    refine ⟨haccount.trans ?_, honly⟩
    rw [hended.1]
    rfl

/-- What a settlement does to a PRINT job, its owner and the notices. -/
theorem settle_print {k i : Nat} {j : Job} {s : State} (hfind : Table.find s.jobUnit.jobs k = some j)
    (hprint : j.kind = .print) (howner : j.owner = some i) :
    Table.find (settle k s).jobUnit.jobs k = some { j with state := .settled, owner := none } ∧
    onlyJob k s (settle k s) ∧
    accountGoes i (settledOwner (account s i) (j.reserved.sub j.charged)) s (settle k s) ∧
    raised [.jobSettled] s (settle k s) ∧
    onlyParts [.account, .job, .notice, .retention] s (settle k s) := by
  rw [settle_eq hfind hprint howner]
  have hretires := parts_completeRetirement i (jobEnded k i j s)
  have hjobs := (hretires .job (by decide)).trans (jobUnit_jobEnded k i j s)
  refine ⟨?_, onlyJob_congr (onlyJob_putJob k _ s) hjobs, retired_goes k i j s, ?_, ?_⟩
  · rw [hjobs, find_putJob, if_pos rfl]
  · exact raised_trans (raised_jobEnded k i j s) (raised_refl _ _ (hretires .notice (by decide)))
  · exact parts_comp (parts_jobEnded k i j s) hretires (fun _ h => h) (by decide)

/-- The owner of a settled job reads as the statements of R26 and R49 have it. -/
theorem afterEvent_settledOwner {a b : Account} (units : Amounts) (h : b.state = a.state) :
    afterEvent a (settledOwner b units) =
      if b.state = .retiring ∧ b.openJobs ≤ 1 then Account.free false
      else afterEvent a { b.giveBack units with openJobs := b.openJobs - 1 } := by
  unfold settledOwner
  split
  · rename_i hr
    have hdiffers : sameForImage a .retired = false := by
      refine Bool.eq_false_iff.mpr fun hsame => ?_
      have hfree := congrArg Account.state ((sameForImage_iff _ _).mp hsame)
      rw [h] at hr
      simp [imageFields, hr.1, Account.retired, Account.free] at hfree
    rw [afterEvent, hdiffers]
    rfl
  · rfl

/-! ### The resolution claim (R42) -/

/-- The job's entry and its owner's account after a claim that charges, before any settlement. -/
def charged (how : Resolution) (e : Sheet) (k i : Nat) (j : Job) (s : State) : State :=
  updateAccount i (fun a => a.charge e.amounts e.sideCounts) (putJob k (j.resolve how e) s)

theorem resolveClaim_charged {how : Resolution} {e : Sheet} {k i : Nat} {j : Job} {s : State}
    (hhow : how ≠ .jammed) (hjob : jobOfTag s e.tag = some (k, j)) (howner : j.owner = some i) :
    resolveClaim how e s = settleIfDone k (charged how e k i j s) := by
  simp [resolveClaim, hjob, howner, hhow, charged]

/-- What the claim of a charge does before any settlement. -/
theorem charged_spec (how : Resolution) (e : Sheet) (k i : Nat) (j : Job) (s : State) :
    Table.find (charged how e k i j s).jobUnit.jobs k = some (j.resolve how e) ∧
    onlyJob k s (charged how e k i j s) ∧
    accountGoes i ((account s i).charge e.amounts e.sideCounts) s (charged how e k i j s) ∧
    (charged how e k i j s).noticeUnit = s.noticeUnit ∧
    onlyParts [.account, .job, .retention] s (charged how e k i j s) := by
  have hjobs : (charged how e k i j s).jobUnit = (putJob k (j.resolve how e) s).jobUnit := updateAccount_jobUnit ..
  refine ⟨?_, onlyJob_congr (onlyJob_putJob k _ s) hjobs, ?_, ?_, ?_⟩
  · rw [hjobs, find_putJob, if_pos rfl]
  · exact accountGoes_congr (accountGoes_updateAccount i _ (putJob k (j.resolve how e) s)) rfl rfl rfl rfl
  · exact updateAccount_noticeUnit ..
  · exact parts_comp (parts_putJob k _ s) (parts_updateAccount i _ _) (by decide) (by decide)

theorem resolve_state (how : Resolution) (e : Sheet) (j : Job) : (j.resolve how e).state = j.state := by
  cases how <;> rfl

theorem resolve_committed (how : Resolution) (e : Sheet) (j : Job) :
    (j.resolve how e).committed = j.committed.sub e.amounts := by
  cases how <;> rfl

/-- A charge whose job stays open: no settlement follows. -/
theorem resolveClaim_open {how : Resolution} {e : Sheet} {k i : Nat} {j : Job} {s : State} (hhow : how ≠ .jammed)
    (hjob : jobOfTag s e.tag = some (k, j)) (howner : j.owner = some i)
    (hopen : ¬ (j.state = .closing ∧ j.committed.sub e.amounts = .zero)) :
    resolveClaim how e s = charged how e k i j s := by
  rw [resolveClaim_charged hhow hjob howner]
  refine settleIfDone_open (charged_spec how e k i j s).1 ?_
  rwa [resolve_state, resolve_committed]

/-- A charge that leaves a CLOSING PRINT job with nothing committed settles it, in the same event. -/
theorem resolveClaim_settles {e : Sheet} {k i : Nat} {j : Job} {s : State}
    (hjob : jobOfTag s e.tag = some (k, j)) (howner : j.owner = some i) (hprint : j.kind = .print)
    (hclosing : j.state = .closing) (hzero : j.committed.sub e.amounts = .zero) :
    printSettled k i
      { j with
        committed := .zero, charged := j.charged.add e.amounts, lapsed := min 16777215 (j.lapsed + 1) }
      ((account s i).charge e.amounts e.sideCounts) s (resolveClaim .lapsed e s) ∧
    onlyJob k s (resolveClaim .lapsed e s) ∧ raised [.jobSettled] s (resolveClaim .lapsed e s) ∧
    onlyParts [.account, .job, .notice, .retention] s (resolveClaim .lapsed e s) := by
  obtain ⟨hfind, honly, hgoes, hnotices, hparts⟩ := charged_spec .lapsed e k i j s
  have hclaim : resolveClaim .lapsed e s = settle k (charged .lapsed e k i j s) := by
    rw [resolveClaim_charged (by decide) hjob howner]
    exact settleIfDone_done hfind hclosing hzero
  obtain ⟨hjob', honly', hgoes', hraised, hparts'⟩ := settle_print hfind hprint howner
  have hunits : (j.resolve .lapsed e).reserved.sub (j.resolve .lapsed e).charged =
      j.reserved.sub (j.charged.add e.amounts) := rfl
  rw [hunits, hgoes.1] at hgoes'
  rw [hclaim]
  obtain ⟨q, hq⟩ := settledOwner_preserved ((account s i).charge e.amounts e.sideCounts)
    (afterEvent (account s i) ((account s i).charge e.amounts e.sideCounts)).preserved
    (j.reserved.sub (j.charged.add e.amounts))
  have hflag : settledOwner (afterEvent (account s i) ((account s i).charge e.amounts e.sideCounts))
      (j.reserved.sub (j.charged.add e.amounts)) = _ := hq
  rw [hflag] at hgoes'
  obtain ⟨haccount, haccounts⟩ := accountGoes_trans hgoes hgoes'
    fun h => charge_not_undone _ _ _ (j.reserved.sub (j.charged.add e.amounts)) h
  refine ⟨⟨?_, ?_, haccounts⟩, ?_, ?_, ?_⟩
  · rw [hjob', ← hzero]
    rfl
  · rw [haccount]
    exact afterEvent_settledOwner (j.reserved.sub (j.charged.add e.amounts)) rfl
  · obtain ⟨hothers, htag, hstops⟩ := honly
    obtain ⟨hothers', htag', hstops'⟩ := honly'
    exact ⟨fun k' hk => (hothers' k' hk).trans (hothers k' hk), htag'.trans htag, hstops'.trans hstops⟩
  · exact raised_trans (raised_refl s _ hnotices) hraised
  · exact parts_comp hparts hparts' (by decide) (by decide)

/-! ### The sheet timers (R60, R78) -/

theorem exec_sheetTimerSecond {n : BitVec 16} {e : Sheet} {s : State} (hup : down s = false)
    (he : sheetAt s n = some e) :
    exec (.sheetTimerSecond n) s = .next { s with sheetLink := { s.sheetLink with
      sheets := Table.put s.sheetLink.sheets n.toNat { e with seconds := min 30 (e.seconds + 1) } } } := by
  refine congrArg Host.Outcome.next ((whenUp_of_up hup).trans ?_)
  simp only [he]
  rfl

theorem exec_sheetLapse {n : BitVec 16} {e : Sheet} {s : State} (hup : down s = false) (he : sheetAt s n = some e) :
    exec (.sheetLapse n) s = .next (if e.seconds < 30 then s
      else removeSheet n (raise .sheetLapsed (resolveClaim .lapsed e s))) := by
  refine congrArg Host.Outcome.next ((whenUp_of_up hup).trans ?_)
  simp only [he]
  rfl

/-- The lapse takes its sheet off the table, and no other. -/
theorem sheetAt_lapsed (e : Sheet) (n m : BitVec 16) (s : State) :
    sheetAt (removeSheet n (raise .sheetLapsed (resolveClaim .lapsed e s))) m =
      if m = n then none else sheetAt s m := by
  have hlink : (resolveClaim .lapsed e s).sheetLink = s.sheetLink := parts_resolveClaim .lapsed e s .sheet (by decide)
  rw [sheetAt_removeSheet]
  congr 1
  exact sheetAt_congr (by rw [raise_sheetLink, hlink]) m

theorem sheetLink_lapsed (e : Sheet) (n : BitVec 16) (s : State) :
    (removeSheet n (raise .sheetLapsed (resolveClaim .lapsed e s))).sheetLink =
      { s.sheetLink with sheets := Table.drop s.sheetLink.sheets n.toNat } := by
  have hlink : (resolveClaim .lapsed e s).sheetLink = s.sheetLink := parts_resolveClaim .lapsed e s .sheet (by decide)
  simp only [removeSheet, raise_sheetLink, hlink]

/-- The notice and the removal follow the claim. -/
theorem parts_lapsed {e : Sheet} {n : BitVec 16} {s : State}
    (h : onlyParts [.account, .job, .notice, .retention] s (resolveClaim .lapsed e s)) :
    onlyParts [.account, .job, .sheet, .notice, .retention] s
      (removeSheet n (raise .sheetLapsed (resolveClaim .lapsed e s))) :=
  parts_comp (parts_comp (l := [.account, .job, .notice, .retention]) h (parts_raise _ _) (fun _ h => h) (by decide))
    (parts_removeSheet _ _) (by decide) (by decide)

/-- The notice of a lapse comes after those of its claim. -/
theorem raised_lapsed {ns : List Notice} {e : Sheet} {n : BitVec 16} {s : State}
    (h : raised ns s (resolveClaim .lapsed e s)) :
    raised (.sheetLapsed :: ns) s (removeSheet n (raise .sheetLapsed (resolveClaim .lapsed e s))) := by
  refine raised_congr (l := ns ++ [.sheetLapsed])
    (raised_trans h (raised_raise .sheetLapsed (resolveClaim .lapsed e s))) fun m => ?_
  simp [Bool.or_comm]

/-- Settles O28: a lapse is a claim that charges, its notice, and the removal of the sheet. -/
theorem lapsedSheetIsChargedWithoutDoses : Obligations.LapsedSheetIsChargedWithoutDoses := by
  intro s n e hup he
  have hlapse := exec_sheetLapse hup he
  refine ⟨?_, fun hearly => by rw [hlapse, if_pos hearly], fun k i j hfull hjob howner hopen => ?_,
    fun k i j hfull hjob howner hprint hclosing hzero => ?_⟩
  · refine ⟨_, exec_sheetTimerSecond hup he, Table.find_put_same .., fun m hm => ?_, rfl⟩
    exact Table.find_put_other _ _ (toNat_ne hm)
  all_goals rw [if_neg (by omega)] at hlapse
  · have hclaim := resolveClaim_open (how := .lapsed) (by decide) hjob howner hopen
    obtain ⟨hfind, honly, ⟨haccount, haccounts⟩, hnotices, hparts⟩ := charged_spec .lapsed e k i j s
    rw [← hclaim] at hfind honly haccount haccounts hnotices hparts
    refine ⟨_, hlapse, hfind, honly, haccount, haccounts, ?_, fun m hm => ?_, ?_, ?_, ?_⟩
    · exact (sheetAt_lapsed e n n s).trans (if_pos rfl)
    · exact (sheetAt_lapsed e n m s).trans (if_neg hm)
    · rw [sheetLink_lapsed]
    · exact raised_lapsed (raised_refl s _ hnotices)
    · exact parts_lapsed (parts_mono hparts (by decide))
  · obtain ⟨hsettled, honly, hraised, hparts⟩ := resolveClaim_settles hjob howner hprint hclosing hzero
    refine ⟨_, hlapse, hsettled, honly, ?_, fun m hm => ?_, ?_, ?_, ?_⟩
    · exact (sheetAt_lapsed e n n s).trans (if_pos rfl)
    · exact (sheetAt_lapsed e n m s).trans (if_neg hm)
    · rw [sheetLink_lapsed]
    · exact raised_lapsed hraised
    · exact parts_lapsed hparts

end Sys2Proof.SheetAccounting

namespace Sys2Proof.SheetAccounting
open Sys2Proof.Machine

/-! SUPPORT. What one dose does to its station: the fall of the yield, the notice, the change of state, the write that
is requested (R91, R92, R106, R111 to R115), each as one new record of that station. -/

/-! ### One record of the station table -/

theorem putStation_putStation (st : Station) (x y : StationRecord) (s : State) :
    putStation st y (putStation st x s) = putStation st y s := by cases st <;> rfl

theorem putStation_station (st : Station) (s : State) : putStation st (station s st) s = s := by cases st <;> rfl

theorem station_congr {s t : State} (h : t.stationUnit = s.stationUnit) (st : Station) : station t st = station s st := by
  simp only [station, h]

@[simp] theorem station_raise (n : Notice) (st : Station) (s : State) : station (raise n s) st = station s st := rfl

@[simp] theorem stationUnit_raiseIf (c : Bool) (n : Notice) (s : State) :
    (raiseIf c n s).stationUnit = s.stationUnit := parts_raiseIf c n s .station (by decide)

@[simp] theorem station_raiseIf (c : Bool) (n : Notice) (st : Station) (s : State) :
    station (raiseIf c n s) st = station s st := station_congr (stationUnit_raiseIf c n s) st

@[simp] theorem stationUnit_stationLost (st : Station) (s : State) :
    (stationLost st s).stationUnit = s.stationUnit := parts_stationLost st s .station (by decide)

@[simp] theorem station_stationLost (st st' : Station) (s : State) :
    station (stationLost st s) st' = station s st' := station_congr (stationUnit_stationLost st s) st'

/-! The notices and the stop requests look at no station, so a record may be written before or after them. -/

theorem putStation_raise (st : Station) (x : StationRecord) (n : Notice) (s : State) :
    putStation st x (raise n s) = raise n (putStation st x s) := rfl

theorem putStation_raiseIf (st : Station) (x : StationRecord) (c : Bool) (n : Notice) (s : State) :
    putStation st x (raiseIf c n s) = raiseIf c n (putStation st x s) := by cases c <;> rfl

theorem putStation_stationLost (st st' : Station) (x : StationRecord) (s : State) :
    putStation st x (stationLost st' s) = stationLost st' (putStation st x s) := by
  simp only [stationLost, stopJobs, putStation_raiseIf]
  rfl

/-- The station table with one record written is that of an event of the station. -/
theorem stationBecomes_of_put {st : Station} {z : StationRecord} {s t : State}
    (h : t.stationUnit = (putStation st z s).stationUnit) : stationBecomes st z s t := by
  refine ⟨?_, fun st' hst => ?_, by rw [h]; rfl⟩
  · rw [station_congr h, station_putStation_same]
  · rw [station_congr h, station_putStation, if_neg hst]

theorem onlyStation_refl {st : Station} {s t : State} (h : t.stationUnit = s.stationUnit) : onlyStation st s t :=
  ⟨fun st' _ => station_congr h st', by rw [h]⟩

theorem onlyStation_trans {st : Station} {s t u : State} (h : onlyStation st s t) (h' : onlyStation st t u) :
    onlyStation st s u :=
  ⟨fun st' hst => (h'.1 st' hst).trans (h.1 st' hst), h'.2.trans h.2⟩

theorem onlyStation_putStation (st : Station) (z : StationRecord) (s : State) : onlyStation st s (putStation st z s) :=
  (stationBecomes_of_put rfl).2

theorem onlyStation_ite {st : Station} {s t u : State} {c : Prop} [Decidable c] (h : onlyStation st s t)
    (h' : onlyStation st s u) : onlyStation st s (if c then t else u) := by
  split
  · exact h
  · exact h'

/-! ### Each operation is an event of its station -/

theorem onlyStation_enterState (st : Station) (new : StationState) (s : State) :
    onlyStation st s (enterState st new s) := by
  refine onlyStation_ite (onlyStation_refl rfl) ?_
  refine onlyStation_trans (onlyStation_putStation st { station s st with state := new } s) (onlyStation_refl ?_)
  split
  · exact stationUnit_stationLost st _
  · rfl

theorem onlyStation_startNext (st : Station) (s : State) : onlyStation st s (startNext st s) := by
  unfold startNext
  simp only
  split
  · split
    · exact onlyStation_trans (onlyStation_putStation st _ s) (onlyStation_refl rfl)
    · exact onlyStation_putStation st _ s
  · exact onlyStation_refl rfl

theorem onlyStation_enqueue (st : Station) (kind : ExchangeKind) (s : State) :
    onlyStation st s (enqueue st kind s) :=
  onlyStation_ite (onlyStation_refl rfl)
    (onlyStation_trans (onlyStation_putStation st _ s) (onlyStation_startNext st _))

theorem onlyStation_requestWrite (st : Station) (s : State) : onlyStation st s (requestWrite st s) :=
  onlyStation_ite (onlyStation_enqueue st _ s) (onlyStation_refl rfl)

theorem onlyStation_recheck (st : Station) (s : State) : onlyStation st s (recheck st s) :=
  onlyStation_ite (onlyStation_trans (onlyStation_enterState st _ s) (onlyStation_enqueue st _ _)) (onlyStation_refl rfl)

theorem onlyStation_runsOut (st : Station) (s : State) : onlyStation st s (runsOut st s) := by
  refine onlyStation_ite ?_ (onlyStation_refl rfl)
  have henter := onlyStation_enterState st (station s st).proven s
  exact onlyStation_ite (onlyStation_trans henter (onlyStation_requestWrite st _)) henter

theorem onlyStation_graceSide (st : Station) (s : State) : onlyStation st s (graceSide st s) := by
  refine onlyStation_ite ?_ (onlyStation_refl rfl)
  have hused := fun x => onlyStation_putStation st x s
  exact onlyStation_ite (onlyStation_trans (hused _) (onlyStation_enterState st _ _)) (hused _)

theorem onlyStation_writeBackTest (st : Station) (s : State) : onlyStation st s (writeBackTest st s) :=
  onlyStation_ite (onlyStation_requestWrite st s) (onlyStation_refl rfl)

theorem onlyStation_lowYieldTest (st : Station) (rated : Nat) (s : State) :
    onlyStation st s (lowYieldTest st rated s) :=
  onlyStation_ite (onlyStation_trans (onlyStation_putStation st _ s) (onlyStation_refl rfl)) (onlyStation_refl rfl)

/-- A dose changes no other station, nor the rotation. -/
theorem onlyStation_meterDose (st : Station) (dose : Nat) (s : State) : onlyStation st s (meterDose st dose s) := by
  unfold meterDose
  simp only
  split
  · exact onlyStation_refl rfl
  · refine onlyStation_trans ?_ (onlyStation_writeBackTest st _)
    have hspent := fun x rated =>
      onlyStation_trans (onlyStation_putStation st x s) (onlyStation_lowYieldTest st rated _)
    exact onlyStation_ite (onlyStation_trans (hspent _ _) (onlyStation_graceSide st _))
      (onlyStation_ite (onlyStation_trans (hspent _ _) (onlyStation_runsOut st _)) (hspent _ _))

/-! ### Entering a state, and asking for a write (R85, R91, R92, R106) -/

theorem enterState_found {st : Station} {new : StationState} {s : State} (h : (station s st).state ≠ new)
    (hfound : new.lost = false) :
    enterState st new s = raise .stationChanged (putStation st { station s st with state := new } s) := by
  simp [enterState, h, hfound]

theorem enterState_lost {st : Station} {new : StationState} {s : State} (h : (station s st).state ≠ new)
    (hlost : new.lost = true) :
    enterState st new s =
      raise .stationChanged (stationLost st (putStation st { station s st with state := new } s)) := by
  simp [enterState, h, hlost]

/-- A YIELD_WRITE in flight at its first attempt, with what it takes from its station (R117). -/
def writing (x : StationRecord) : InFlight := ⟨.yieldWrite x.remaining x.toggle x.unwritten, 1⟩

/-- An idle station that accepts a write starts it. -/
theorem requestWrite_idle {st : Station} {x : StationRecord} {s : State} (hx : station s st = x)
    (haccepts : x.state.acceptsWrite = true) (hflight : x.inFlight = none) (hqueue : x.queue = []) :
    requestWrite st s = putStation st { x with inFlight := some (writing x) } s := by
  have hmay : startable s.randomSource.health .yieldWrite = true := rfl
  simp [requestWrite, hx, haccepts, enqueue, hqueue, startNext, hflight, hmay, putStation_putStation,
    StationRecord.begin, writing]

/-- A write asked for behind an exchange in flight waits. -/
theorem requestWrite_behind {st : Station} {x : StationRecord} {f : InFlight} {s : State} (hx : station s st = x)
    (haccepts : x.state.acceptsWrite = true) (hflight : x.inFlight = some f)
    (hnot : ExchangeKind.yieldWrite ∉ x.queue) :
    requestWrite st s = putStation st { x with queue := x.queue ++ [.yieldWrite] } s := by
  simp [requestWrite, hx, haccepts, enqueue, hnot, startNext, hflight]

/-! ### The write-back test (R115) -/

theorem writeBackTest_below {st : Station} {s : State} (h : (station s st).aboveBase < 20000) :
    writeBackTest st s = s := by
  refine if_neg fun hc => ?_
  have hle : 20000 ≤ (station s st).aboveBase := hc.1
  omega

theorem writeBackTest_due {st : Station} {s : State} (h : 20000 ≤ (station s st).aboveBase)
    (hnot : ExchangeKind.yieldWrite ∉ (station s st).queue) : writeBackTest st s = requestWrite st s :=
  if_pos ⟨h, by simpa using hnot⟩

theorem writeBackTest_pending {st : Station} {s : State} (h : ExchangeKind.yieldWrite ∈ (station s st).queue) :
    writeBackTest st s = s := if_neg fun hc => hc.2 (by simpa using h)

theorem aboveBase_le (x : StationRecord) : x.aboveBase ≤ x.unwritten := by
  unfold StationRecord.aboveBase
  split
  · exact Nat.sub_le ..
  · exact Nat.le_refl _

theorem aboveBase_idle {x : StationRecord} (h : x.inFlight = none) : x.aboveBase = x.unwritten := by
  simp [StationRecord.aboveBase, h]

/-- A write that has just taken the whole unwritten dose as its base leaves nothing above it. -/
theorem aboveBase_writing {x y : StationRecord} (h : x.inFlight = some (writing y)) (hu : x.unwritten = y.unwritten) :
    x.aboveBase = 0 := by
  simp [StationRecord.aboveBase, h, writing, hu]

/-! ### The fall of the yield (R111, R112) -/

/-- The record once a dose has been taken from the remaining yield. -/
def spend (x : StationRecord) (dose rated : Nat) : StationRecord :=
  { x with
    remaining := x.remaining - dose, unwritten := x.unwritten + min dose x.remaining
    lowRaised := x.lowRaised || decide (20 * (x.remaining - dose) ≤ rated) }

/-- The dose brings the yield to 5% or below for the first time. -/
def runsLow (x : StationRecord) (dose rated : Nat) : Bool :=
  !x.lowRaised && decide (20 * (x.remaining - dose) ≤ rated)

/-- A dose has been taken and the low-yield test made. -/
def spent (st : Station) (dose rated : Nat) (s : State) : State :=
  raiseIf (runsLow (station s st) dose rated) .yieldLow (putStation st (spend (station s st) dose rated) s)

@[simp] theorem station_spent (st : Station) (dose rated : Nat) (s : State) :
    station (spent st dose rated s) st = spend (station s st) dose rated := by simp [spent]

theorem lowYieldTest_spent (st : Station) (dose rated : Nat) (s : State) :
    lowYieldTest st rated (putStation st { station s st with
        remaining := (station s st).remaining - min dose (station s st).remaining
        unwritten := (station s st).unwritten + min dose (station s st).remaining } s) =
      spent st dose rated s := by
  have hfall : (station s st).remaining - min dose (station s st).remaining = (station s st).remaining - dose := by
    omega
  simp only [lowYieldTest, station_putStation_same, putStation_putStation, hfall, spent, spend, runsLow]
  cases hlow : (station s st).lowRaised <;>
    by_cases hfew : 20 * ((station s st).remaining - dose) ≤ rated <;> simp [raiseIf, hfew]

/-- A dose of a station with a cartridge: what comes after its fall is decided by the yield before it (R113, R114). -/
theorem meterDose_eq {st : Station} {c : Cartridge} {dose : Nat} {s : State}
    (hc : (station s st).cartridge = some c) :
    meterDose st dose s = writeBackTest st (
      if (station s st).remaining = 0 then graceSide st (spent st dose c.rated s)
      else if (station s st).remaining ≤ dose then runsOut st (spent st dose c.rated s)
      else spent st dose c.rated s) := by
  simp only [meterDose, ← lowYieldTest_spent]
  split
  · rename_i hnone
    rw [hc] at hnone
    cases hnone
  · rename_i hsome
    rw [hc] at hsome
    cases hsome
    rfl

theorem meterDose_noCartridge {st : Station} {dose : Nat} {s : State} (hc : (station s st).cartridge = none) :
    meterDose st dose s = s := by
  simp only [meterDose, hc]

theorem spend_partial {x : StationRecord} {dose : Nat} (rated : Nat) (h : dose ≤ x.remaining) :
    spend x dose rated = { x with
      remaining := x.remaining - dose, unwritten := x.unwritten + dose
      lowRaised := x.lowRaised || decide (20 * (x.remaining - dose) ≤ rated) } := by
  simp only [spend, Nat.min_eq_left h]

theorem spend_all {x : StationRecord} {dose : Nat} (rated : Nat) (h : x.remaining ≤ dose) :
    spend x dose rated = { x with remaining := 0, unwritten := x.unwritten + x.remaining, lowRaised := true } := by
  simp [spend, Nat.min_eq_right h, Nat.sub_eq_zero_of_le h]

theorem runsLow_all {x : StationRecord} {dose : Nat} (rated : Nat) (h : x.remaining ≤ dose) :
    runsLow x dose rated = !x.lowRaised := by
  simp [runsLow, Nat.sub_eq_zero_of_le h]

/-- A dose of a station at 0 whose YIELD_LOW has been raised takes nothing. -/
theorem spent_dry {st : Station} {dose rated : Nat} {s : State} (h : (station s st).remaining = 0)
    (hlow : (station s st).lowRaised = true) : spent st dose rated s = s := by
  have hrecord : spend (station s st) dose rated = station s st := by
    rw [spend_all rated (by omega), h, Nat.add_zero]
    rw [← h, ← hlow]
  rw [spent, hrecord, putStation_station, runsLow_all rated (by omega), hlow]
  rfl

/-! ### The last dose of a GENUINE station (R113) -/

/-- The station at 0, its whole unwritten dose being written. -/
def ranOut (x : StationRecord) (new : StationState) : StationRecord :=
  { x with
    state := new, remaining := 0, unwritten := x.unwritten + x.remaining, lowRaised := true
    inFlight := some ⟨.yieldWrite 0 x.toggle (x.unwritten + x.remaining), 1⟩ }

/-- A GENUINE, idle station that a dose brings to 0. -/
structure LastDose (x : StationRecord) (dose : Nat) : Prop where
  genuine : x.state = .genuine
  flight : x.inFlight = none
  queue : x.queue = []
  some_left : 0 < x.remaining
  all_taken : x.remaining ≤ dose

/-- The record that the change of state leaves, and the write that it starts. -/
theorem requestWrite_ranOut {st : Station} {x : StationRecord} {new : StationState} {dose rated : Nat} {s : State}
    (hlast : LastDose x dose) (haccepts : new.acceptsWrite = true)
    (hx : station s st = { spend x dose rated with state := new }) :
    requestWrite st s = putStation st (ranOut x new) s := by
  rw [requestWrite_idle hx haccepts hlast.flight hlast.queue, spend_all rated hlast.all_taken]
  rfl

theorem proven_spend {x : StationRecord} {dose : Nat} (rated : Nat) (h : x.remaining ≤ dose) :
    (spend x dose rated).proven = if x.graceUsed < x.graceAllowance then .grace else .exhausted := by
  simp [spend_all rated h, StationRecord.proven]

/-- A station with grace left enters GRACE, and its count is written. -/
theorem meterDose_toGrace {st : Station} {x : StationRecord} {c : Cartridge} {dose : Nat} {s : State}
    (hx : station s st = x) (hc : x.cartridge = some c) (hlast : LastDose x dose)
    (hgrace : x.graceUsed < x.graceAllowance) :
    meterDose st dose s =
      raise .stationChanged (raiseIf (!x.lowRaised) .yieldLow (putStation st (ranOut x .grace) s)) := by
  subst hx
  have hspent : (spend (station s st) dose c.rated).state = .genuine := hlast.genuine
  have hnew : (spend (station s st) dose c.rated).proven = .grace := by
    rw [proven_spend c.rated hlast.all_taken, if_pos hgrace]
  have hunwritten : 0 < (spend (station s st) dose c.rated).unwritten := by
    have := hlast.some_left
    simp only [spend_all c.rated hlast.all_taken]
    omega
  have henter := enterState_found (st := st) (new := .grace) (s := spent st dose c.rated s) (by simp [hspent]) rfl
  have hout : runsOut st (spent st dose c.rated s) =
      raise .stationChanged
        (raiseIf (!(station s st).lowRaised) .yieldLow (putStation st (ranOut (station s st) .grace) s)) := by
    simp only [runsOut, station_spent, hspent, if_true, hnew, henter, station_raise, station_putStation_same,
      if_pos hunwritten]
    rw [requestWrite_ranOut hlast rfl (by rw [station_raise, station_putStation_same])]
    simp only [putStation_raise, putStation_putStation, spent, putStation_raiseIf, runsLow_all c.rated hlast.all_taken]
  rw [meterDose_eq hc, if_neg (by have := hlast.some_left; omega), if_pos hlast.all_taken, hout]
  refine writeBackTest_below ?_
  rw [station_raise, station_raiseIf, station_putStation_same, aboveBase_writing (y := ranOut (station s st) .grace) rfl rfl]
  omega

/-- A station with no grace left is EXHAUSTED and lost, and its count is written. -/
theorem meterDose_toExhausted {st : Station} {x : StationRecord} {c : Cartridge} {dose : Nat} {s : State}
    (hx : station s st = x) (hc : x.cartridge = some c) (hlast : LastDose x dose)
    (hgrace : x.graceAllowance ≤ x.graceUsed) :
    meterDose st dose s = raise .stationChanged (stationLost st
      (raiseIf (!x.lowRaised) .yieldLow (putStation st (ranOut x .exhausted) s))) := by
  subst hx
  have hspent : (spend (station s st) dose c.rated).state = .genuine := hlast.genuine
  have hnew : (spend (station s st) dose c.rated).proven = .exhausted := by
    rw [proven_spend c.rated hlast.all_taken, if_neg (by omega)]
  have hunwritten : 0 < (spend (station s st) dose c.rated).unwritten := by
    have := hlast.some_left
    simp only [spend_all c.rated hlast.all_taken]
    omega
  have henter := enterState_lost (st := st) (new := .exhausted) (s := spent st dose c.rated s) (by simp [hspent]) rfl
  have hout : runsOut st (spent st dose c.rated s) = raise .stationChanged (stationLost st
      (raiseIf (!(station s st).lowRaised) .yieldLow (putStation st (ranOut (station s st) .exhausted) s))) := by
    simp only [runsOut, station_spent, hspent, if_true, hnew, henter, station_raise, station_stationLost,
      station_putStation_same, if_pos hunwritten]
    rw [requestWrite_ranOut hlast rfl (by rw [station_raise, station_stationLost, station_putStation_same])]
    simp only [putStation_raise, putStation_stationLost, putStation_putStation, spent, putStation_raiseIf,
      runsLow_all c.rated hlast.all_taken]
  rw [meterDose_eq hc, if_neg (by have := hlast.some_left; omega), if_pos hlast.all_taken, hout]
  refine writeBackTest_below ?_
  rw [station_raise, station_stationLost, station_raiseIf, station_putStation_same,
    aboveBase_writing (y := ranOut (station s st) .exhausted) rfl rfl]
  omega

/-! ### Grace sides (R114) -/

/-- A side of a station at 0 whose YIELD_LOW has been raised is a grace side, or nothing. -/
theorem meterDose_dry {st : Station} {x : StationRecord} {c : Cartridge} {s : State} (dose : Nat)
    (hx : station s st = x) (hc : x.cartridge = some c) (hzero : x.remaining = 0) (hlow : x.lowRaised = true) :
    meterDose st dose s = writeBackTest st (graceSide st s) := by
  subst hx
  rw [meterDose_eq hc, if_pos hzero, spent_dry hzero hlow]

theorem graceSide_counts {st : Station} {x : StationRecord} {s : State} (hx : station s st = x)
    (h : (x.state = .grace ∧ satAdd 255 x.graceUsed 1 < x.graceAllowance) ∨ x.state = .rechecking) :
    graceSide st s = putStation st { x with graceUsed := satAdd 255 x.graceUsed 1 } s := by
  simp only [graceSide, hx]
  rcases h with ⟨hs, hmore⟩ | hs
  · rw [if_pos (.inl hs), if_neg (by omega)]
  · rw [if_pos (.inr hs), if_neg (by simp [hs])]

theorem graceSide_ends {st : Station} {x : StationRecord} {s : State} (hx : station s st = x) (hs : x.state = .grace)
    (hend : x.graceAllowance ≤ satAdd 255 x.graceUsed 1) :
    graceSide st s = raise .stationChanged (stationLost st
      (putStation st { x with graceUsed := satAdd 255 x.graceUsed 1, state := .exhausted } s)) := by
  simp only [graceSide, hx]
  rw [if_pos (.inl hs), if_pos ⟨hs, hend⟩, enterState_lost (by simp [hs]) rfl]
  simp only [station_putStation_same, putStation_putStation]

end Sys2Proof.SheetAccounting

namespace Sys2Proof.SheetAccounting
open Sys2Proof.Machine

/-! SUPPORT. The doses of a report at one station, side 1 and then side 2 (R74, R111 to R115), and the reports that
bring them (R75, R77). -/

/-! ### One dose, by what it finds -/

/-- A dose that leaves some yield and too little unwritten for a write. -/
theorem meterDose_small {st : Station} {x : StationRecord} {c : Cartridge} {dose : Nat} {s : State}
    (hx : station s st = x) (hc : x.cartridge = some c) (hleft : dose < x.remaining)
    (hfew : x.unwritten + dose < 20000) : meterDose st dose s = spent st dose c.rated s := by
  subst hx
  rw [meterDose_eq hc, if_neg (by omega), if_neg (by omega)]
  refine writeBackTest_below ?_
  have hbase := aboveBase_le (spend (station s st) dose c.rated)
  have hunwritten := congrArg StationRecord.unwritten (spend_partial c.rated (Nat.le_of_lt hleft))
  simp only at hunwritten
  rw [station_spent]
  omega

/-- A dose that leaves some yield and enough unwritten for a write. -/
theorem meterDose_due {st : Station} {x : StationRecord} {c : Cartridge} {dose : Nat} {s : State}
    (hx : station s st = x) (hc : x.cartridge = some c) (hleft : dose < x.remaining)
    (hdue : 20000 ≤ (spend x dose c.rated).aboveBase) (hnot : ExchangeKind.yieldWrite ∉ x.queue) :
    meterDose st dose s = requestWrite st (spent st dose c.rated s) := by
  subst hx
  rw [meterDose_eq hc, if_neg (by omega), if_neg (by omega)]
  exact writeBackTest_due (by rwa [station_spent]) (by rwa [station_spent])

/-- A grace side that leaves the station where it is. -/
theorem meterDose_graceCounts {st : Station} {x : StationRecord} {c : Cartridge} {s : State} (dose : Nat)
    (hx : station s st = x) (hc : x.cartridge = some c) (hzero : x.remaining = 0) (hlow : x.lowRaised = true)
    (hfew : x.aboveBase < 20000)
    (h : (x.state = .grace ∧ satAdd 255 x.graceUsed 1 < x.graceAllowance) ∨ x.state = .rechecking) :
    meterDose st dose s = putStation st { x with graceUsed := satAdd 255 x.graceUsed 1 } s := by
  rw [meterDose_dry dose hx hc hzero hlow, graceSide_counts hx h]
  exact writeBackTest_below (by rw [station_putStation_same]; exact hfew)

/-- The grace side that uses the allowance up. -/
theorem meterDose_graceEnds {st : Station} {x : StationRecord} {c : Cartridge} {s : State} (dose : Nat)
    (hx : station s st = x) (hc : x.cartridge = some c) (hzero : x.remaining = 0) (hlow : x.lowRaised = true)
    (hfew : x.aboveBase < 20000) (hs : x.state = .grace) (hend : x.graceAllowance ≤ satAdd 255 x.graceUsed 1) :
    meterDose st dose s = raise .stationChanged (stationLost st
      (putStation st { x with graceUsed := satAdd 255 x.graceUsed 1, state := .exhausted } s)) := by
  rw [meterDose_dry dose hx hc hzero hlow, graceSide_ends hx hs hend]
  refine writeBackTest_below ?_
  rw [station_raise, station_stationLost, station_putStation_same]
  exact hfew

/-! ### The two sides -/

/-- A side's dose at a station; one of 0 is not passed (R74). -/
def sideDose (st : Station) (dose : Nat) (s : State) : State := if dose = 0 then s else meterDose st dose s

/-- The doses of side 1 and of side 2 at a station. -/
def sideDoses (st : Station) (d1 d2 : Nat) (s : State) : State := sideDose st d2 (sideDose st d1 s)

theorem sideDose_zero (st : Station) (s : State) : sideDose st 0 s = s := rfl

theorem sideDose_pos {st : Station} {dose : Nat} (h : dose ≠ 0) (s : State) :
    sideDose st dose s = meterDose st dose s := if_neg h

theorem onlyStation_sideDoses (st : Station) (d1 d2 : Nat) (s : State) : onlyStation st s (sideDoses st d1 d2 s) := by
  have hside (dose : Nat) (u : State) : onlyStation st u (sideDose st dose u) :=
    onlyStation_ite (onlyStation_refl rfl) (onlyStation_meterDose st dose u)
  exact onlyStation_trans (hside d1 s) (hside d2 _)

theorem passStation_eq (sides : Nat) (r : SheetReport) (s : State) (st : Station) :
    passStation sides r s st =
      sideDoses st (r.doses1.get st).toNat (if sides = 2 then (r.doses2.get st).toNat else 0) s := by
  unfold passStation sideDoses
  by_cases h : sides = 2
  · rw [if_pos h, if_pos h]
    rfl
  · rw [if_neg h, if_neg h]
    rfl

/-- No dose of a station leaves it as it is. -/
theorem passStation_none {sides : Nat} {r : SheetReport} {st : Station} (s : State)
    (h : (r.doses1.get st).toNat = 0 ∧ (sides = 2 → (r.doses2.get st).toNat = 0)) : passStation sides r s st = s := by
  have h2 : (if sides = 2 then (r.doses2.get st).toNat else 0) = 0 := by
    split
    · exact h.2 ‹_›
    · rfl
  rw [passStation_eq, h.1, h2]
  rfl

theorem passDoses_none {sides : Nat} {r : SheetReport} (s : State)
    (h : ∀ st, (r.doses1.get st).toNat = 0 ∧ (sides = 2 → (r.doses2.get st).toNat = 0)) :
    passDoses sides r s = s := by
  have hnone (st : Station) (u : State) : passStation sides r u st = u := passStation_none u (h st)
  simp only [passDoses, Station.list, List.foldl_cons, List.foldl_nil, hnone]

/-- The doses of one station are all that a report with none elsewhere brings. -/
theorem passDoses_single {sides : Nat} {r : SheetReport} {st : Station} (s : State)
    (h : ∀ st', st' ≠ st → (r.doses1.get st').toNat = 0 ∧ (sides = 2 → (r.doses2.get st').toNat = 0)) :
    passDoses sides r s = passStation sides r s st := by
  have hnone (st' : Station) (hst : st' ≠ st) (u : State) : passStation sides r u st' = u :=
    passStation_none u (h st' hst)
  cases st <;> simp [passDoses, Station.list, hnone]

/-- Doses leave the rotation as it is. -/
theorem rotation_passDoses (sides : Nat) (r : SheetReport) (s : State) :
    (passDoses sides r s).stationUnit.rotation = s.stationUnit.rotation := by
  have hkeep (st : Station) (u : State) : (passStation sides r u st).stationUnit.rotation = u.stationUnit.rotation := by
    rw [passStation_eq]
    exact (onlyStation_sideDoses st _ _ u).2
  simp only [passDoses, Station.list, List.foldl_cons, List.foldl_nil, hkeep]

/-! ### What the two sides come to -/

theorem sideDoses_noCartridge {st : Station} {s : State} (d1 d2 : Nat) (hc : (station s st).cartridge = none) :
    sideDoses st d1 d2 s = s := by
  have hside (dose : Nat) : sideDose st dose s = s := by
    unfold sideDose
    split
    · rfl
    · exact meterDose_noCartridge hc
  rw [sideDoses, hside, hside]

theorem spend_spend (x : StationRecord) (d1 d2 rated : Nat) :
    spend (spend x d1 rated) d2 rated = spend x (d1 + d2) rated := by
  have hsub : x.remaining - d1 - d2 = x.remaining - (d1 + d2) := Nat.sub_sub ..
  have hsum : x.unwritten + min d1 x.remaining + min d2 (x.remaining - d1) = x.unwritten + min (d1 + d2) x.remaining := by
    omega
  have hlow : (x.lowRaised || decide (20 * (x.remaining - d1) ≤ rated) ||
      decide (20 * (x.remaining - (d1 + d2)) ≤ rated)) =
        (x.lowRaised || decide (20 * (x.remaining - (d1 + d2)) ≤ rated)) := by
    by_cases h : 20 * (x.remaining - d1) ≤ rated
    · simp [h, show 20 * (x.remaining - (d1 + d2)) ≤ rated by omega]
    · simp [h]
  simp only [spend, hsub, hsum, hlow]

theorem runsLow_spend (x : StationRecord) (d1 d2 rated : Nat) :
    (runsLow x d1 rated || runsLow (spend x d1 rated) d2 rated) = runsLow x (d1 + d2) rated := by
  have hsub : x.remaining - d1 - d2 = x.remaining - (d1 + d2) := Nat.sub_sub ..
  simp only [runsLow, spend, hsub]
  by_cases h : 20 * (x.remaining - d1) ≤ rated
  · simp [h, show 20 * (x.remaining - (d1 + d2)) ≤ rated by omega]
  · simp [h]

/-- YIELD_LOW is raised where the doses bring the yield to 5% for the first time. -/
theorem raised_spent (st : Station) (dose rated : Nat) (s : State) :
    raised (if runsLow (station s st) dose rated then [.yieldLow] else []) s (spent st dose rated s) :=
  raised_raiseIf _ .yieldLow (putStation st (spend (station s st) dose rated) s)

/-- Two doses that leave some yield and request no write are one of their sum. -/
theorem sideDoses_small {st : Station} {x : StationRecord} {c : Cartridge} {d1 d2 : Nat} {s : State}
    (hx : station s st = x) (hc : x.cartridge = some c) (hsome : 1 ≤ d1 + d2) (hleft : d1 + d2 < x.remaining)
    (hfew : x.unwritten + d1 + d2 < 20000) :
    station (sideDoses st d1 d2 s) st = spend x (d1 + d2) c.rated ∧
    raised (if runsLow x (d1 + d2) c.rated then [.yieldLow] else []) s (sideDoses st d1 d2 s) := by
  subst hx
  have hone (dose : Nat) (h0 : dose ≠ 0) (hl : dose < (station s st).remaining)
      (hf : (station s st).unwritten + dose < 20000) : sideDose st dose s = spent st dose c.rated s := by
    rw [sideDose_pos h0, meterDose_small rfl hc hl hf]
  unfold sideDoses
  by_cases h1 : d1 = 0
  · subst h1
    rw [sideDose_zero, hone d2 (by omega) (by omega) (by omega), Nat.zero_add]
    exact ⟨station_spent .., raised_spent ..⟩
  rw [hone d1 h1 (by omega) (by omega)]
  by_cases h2 : d2 = 0
  · subst h2
    exact ⟨station_spent .., raised_spent ..⟩
  have hrecord := spend_partial (x := station s st) (dose := d1) c.rated (by omega)
  have hremaining := congrArg StationRecord.remaining hrecord
  have hunwritten := congrArg StationRecord.unwritten hrecord
  simp only at hremaining hunwritten
  rw [sideDose_pos h2, meterDose_small (station_spent st d1 c.rated s) hc (by omega) (by omega)]
  refine ⟨by rw [station_spent, station_spent, spend_spend], ?_⟩
  have hboth := raised_trans (raised_spent st d1 c.rated s) (raised_spent st d2 c.rated (spent st d1 c.rated s))
  rw [station_spent] at hboth
  refine raised_congr hboth fun n => ?_
  rw [← runsLow_spend]
  cases runsLow (station s st) d1 c.rated <;> cases runsLow (spend (station s st) d1 c.rated) d2 c.rated <;> simp

/-- A GENUINE station that side 1 brings to 0: side 2 is a grace side. -/
theorem sideDoses_toGrace {st : Station} {x : StationRecord} {c : Cartridge} {d1 d2 : Nat} {s : State}
    (hx : station s st = x) (hc : x.cartridge = some c) (hlast : LastDose x d1)
    (hgrace : x.graceUsed < x.graceAllowance) (hused : x.graceUsed < 255) :
    station (sideDoses st d1 d2 s) st = { ranOut x .grace with
      state := if d2 = 0 ∨ x.graceUsed + 1 < x.graceAllowance then .grace else .exhausted
      graceUsed := if d2 = 0 then x.graceUsed else x.graceUsed + 1 } := by
  have hpos : d1 ≠ 0 := by have := hlast.some_left; have := hlast.all_taken; omega
  have hfirst : station (sideDose st d1 s) st = ranOut x .grace := by
    rw [sideDose_pos hpos, meterDose_toGrace hx hc hlast hgrace, station_raise, station_raiseIf,
      station_putStation_same]
  unfold sideDoses
  by_cases h2 : d2 = 0
  · subst h2
    rw [sideDose_zero, hfirst]
    simp [ranOut]
  have hsat : satAdd 255 (ranOut x .grace).graceUsed 1 = x.graceUsed + 1 := Nat.min_eq_right hused
  have hbase : (ranOut x .grace).aboveBase < 20000 := by
    rw [aboveBase_writing (y := ranOut x .grace) rfl rfl]
    omega
  rw [sideDose_pos h2, if_neg h2]
  by_cases hmore : x.graceUsed + 1 < x.graceAllowance
  · rw [meterDose_graceCounts d2 hfirst hc rfl rfl hbase (.inl ⟨rfl, by rw [hsat]; exact hmore⟩),
      station_putStation_same, hsat, if_pos (.inr hmore)]
    rfl
  · have hend : (ranOut x .grace).graceAllowance ≤ satAdd 255 (ranOut x .grace).graceUsed 1 := by
      rw [hsat]
      exact Nat.le_of_not_lt hmore
    rw [meterDose_graceEnds d2 hfirst hc rfl rfl hbase rfl hend, station_raise, station_stationLost,
      station_putStation_same, hsat, if_neg (by simp [h2, hmore])]

/-- A GENUINE station that side 2 brings to 0. -/
theorem sideDoses_toGrace_second {st : Station} {x : StationRecord} {c : Cartridge} {d1 d2 : Nat} {s : State}
    (hx : station s st = x) (hc : x.cartridge = some c) (hlast : LastDose x (d1 + d2)) (hleft : d1 < x.remaining)
    (hfew : x.unwritten + d1 < 20000) (hgrace : x.graceUsed < x.graceAllowance) :
    station (sideDoses st d1 d2 s) st = ranOut x .grace := by
  have hpos : d2 ≠ 0 := by have := hlast.all_taken; omega
  unfold sideDoses
  rw [sideDose_pos hpos]
  by_cases h1 : d1 = 0
  · subst h1
    rw [sideDose_zero, meterDose_toGrace hx hc (by simpa using hlast) hgrace, station_raise, station_raiseIf,
      station_putStation_same]
  have hrecord := spend_partial c.rated (Nat.le_of_lt hleft)
  have hfirst : station (sideDose st d1 s) st = spend x d1 c.rated := by
    subst hx
    rw [sideDose_pos h1, meterDose_small rfl hc hleft hfew, station_spent]
  have hremaining := congrArg StationRecord.remaining hrecord
  simp only at hremaining
  have htaken := hlast.all_taken
  have hsecond : LastDose (spend x d1 c.rated) d2 :=
    ⟨hlast.genuine, hlast.flight, hlast.queue, by omega, by omega⟩
  rw [meterDose_toGrace hfirst hc hsecond hgrace, station_raise, station_raiseIf, station_putStation_same, hrecord]
  simp only [ranOut, show x.unwritten + d1 + (x.remaining - d1) = x.unwritten + x.remaining by omega]

/-- Both sides of a RECHECKING station at 0 are grace sides. -/
theorem sideDoses_rechecking {st : Station} {x : StationRecord} {c : Cartridge} {d1 d2 : Nat} {s : State}
    (hx : station s st = x) (hc : x.cartridge = some c) (hsome : 1 ≤ d1 + d2) (hs : x.state = .rechecking)
    (hzero : x.remaining = 0) (hlow : x.lowRaised = true) (hfew : x.unwritten < 20000) :
    station (sideDoses st d1 d2 s) st = { x with
      graceUsed := min 255 (x.graceUsed + (if d1 = 0 then 0 else 1) + (if d2 = 0 then 0 else 1)) } := by
  have hone (dose : Nat) (h0 : dose ≠ 0) (u : State) (y : StationRecord) (hy : station u st = y)
      (hsame : y = { x with graceUsed := y.graceUsed }) :
      station (sideDose st dose u) st = { x with graceUsed := min 255 (y.graceUsed + 1) } := by
    have hbase : y.aboveBase < 20000 := by
      have hle := aboveBase_le y
      have heq : y.unwritten = x.unwritten := by rw [hsame]
      omega
    rw [sideDose_pos h0, meterDose_graceCounts dose hy (by rw [hsame]; exact hc) (by rw [hsame]; exact hzero)
      (by rw [hsame]; exact hlow) hbase (.inr (by rw [hsame]; exact hs)), station_putStation_same, hsame]
    rfl
  unfold sideDoses
  by_cases h1 : d1 = 0
  · have h2 : d2 ≠ 0 := by omega
    rw [h1, sideDose_zero, hone d2 h2 s x hx rfl]
    simp [h2]
  · have hfirst := hone d1 h1 s x hx rfl
    by_cases h2 : d2 = 0
    · rw [h2, sideDose_zero, hfirst]
      simp [h1]
    · rw [hone d2 h2 _ _ hfirst rfl]
      simp only [if_neg h1, if_neg h2, StationRecord.mk.injEq, and_true, true_and]
      omega

/-- What an exchange in flight has taken as its base: a YIELD_WRITE's, and 0 of any other. -/
def baseOf (f : InFlight) : Nat :=
  match f.exchange with
  | .yieldWrite _ _ base => base
  | _ => 0

theorem aboveBase_inFlight {x : StationRecord} {f : InFlight} (h : x.inFlight = some f) :
    x.aboveBase = x.unwritten - baseOf f := by
  obtain ⟨exchange, attempt⟩ := f
  cases exchange <;> simp [StationRecord.aboveBase, h, baseOf]

/-- A dose that comes to 20,000 unwritten at an idle station starts a write. -/
theorem meterDose_starts {st : Station} {x : StationRecord} {c : Cartridge} {dose : Nat} {s : State}
    (hx : station s st = x) (hc : x.cartridge = some c) (hleft : dose < x.remaining)
    (haccepts : x.state.acceptsWrite = true) (hflight : x.inFlight = none) (hqueue : x.queue = [])
    (hdue : 20000 ≤ x.unwritten + dose) :
    station (meterDose st dose s) st =
      { spend x dose c.rated with inFlight := some (writing (spend x dose c.rated)) } := by
  have hbase : (spend x dose c.rated).aboveBase = x.unwritten + dose := by
    rw [aboveBase_idle (x := spend x dose c.rated) hflight, spend_partial c.rated (Nat.le_of_lt hleft)]
  rw [meterDose_due hx hc hleft (by rw [hbase]; exact hdue) (by simp [hqueue])]
  subst hx
  rw [requestWrite_idle (station_spent st dose c.rated s) haccepts hflight hqueue, station_putStation_same]

/-- A dose behind an exchange in flight queues a write where the test above the base asks for one. -/
theorem meterDose_behind {st : Station} {x : StationRecord} {c : Cartridge} {f : InFlight} {dose : Nat} {s : State}
    (hx : station s st = x) (hc : x.cartridge = some c) (hleft : dose < x.remaining)
    (haccepts : x.state.acceptsWrite = true) (hflight : x.inFlight = some f) :
    station (meterDose st dose s) st = { spend x dose c.rated with
      queue := if 20000 ≤ x.unwritten + dose - baseOf f ∧ ExchangeKind.yieldWrite ∉ x.queue then
        x.queue ++ [.yieldWrite] else x.queue } := by
  have hbase : (spend x dose c.rated).aboveBase = x.unwritten + dose - baseOf f := by
    rw [aboveBase_inFlight (x := spend x dose c.rated) hflight, spend_partial c.rated (Nat.le_of_lt hleft)]
  subst hx
  by_cases hask : 20000 ≤ (station s st).unwritten + dose - baseOf f ∧ ExchangeKind.yieldWrite ∉ (station s st).queue
  · rw [if_pos hask, meterDose_due rfl hc hleft (by rw [hbase]; exact hask.1) hask.2,
      requestWrite_behind (station_spent st dose c.rated s) haccepts hflight hask.2, station_putStation_same]
    rfl
  · have hquiet : writeBackTest st (spent st dose c.rated s) = spent st dose c.rated s := by
      by_cases hmem : ExchangeKind.yieldWrite ∈ (station s st).queue
      · exact writeBackTest_pending (by rw [station_spent]; exact hmem)
      · refine writeBackTest_below ?_
        rw [station_spent, hbase]
        exact Nat.lt_of_not_le fun hle => hask ⟨hle, hmem⟩
    rw [if_neg hask, meterDose_eq hc, if_neg (by omega), if_neg (by omega), hquiet, station_spent]
    rfl

/-! ### The reports that bring doses (R74, R75, R77) -/

/-- A resolution whose job is not CLOSING changes that job and, but for a jam, its owner's account. -/
theorem parts_resolveClaim_running {how : Resolution} {e : Sheet} {s : State}
    (h : ∀ k j, jobOfTag s e.tag = some (k, j) → j.state ≠ .closing) :
    onlyParts (if how = .jammed then [.job] else [.job, .account, .retention]) s (resolveClaim how e s) := by
  cases hjob : jobOfTag s e.tag with
  | none =>
    simp only [resolveClaim, hjob]
    exact parts_refl _ s
  | some entry =>
    obtain ⟨k, j⟩ := entry
    have hrunning : ¬ ((j.resolve how e).state = .closing ∧ (j.resolve how e).committed = .zero) :=
      fun hc => h k j hjob ((resolve_state how e j).symm.trans hc.1)
    have hfind : Table.find (putJob k (j.resolve how e) s).jobUnit.jobs k = some (j.resolve how e) := by
      rw [find_putJob, if_pos rfl]
    simp only [resolveClaim, hjob]
    by_cases hhow : how = .jammed
    · rw [if_pos hhow, if_pos hhow, settleIfDone_open hfind hrunning]
      exact parts_putJob k _ s
    · rw [if_neg hhow, if_neg hhow, settleIfDone_open (by rw [updateAccount_jobUnit]; exact hfind) hrunning]
      exact parts_comp (parts_putJob k _ s) (parts_updateAccount _ _ _) (by decide) (by decide)

/-- A report in range of a sheet in flight, received in IDLE. -/
structure ReportOf (r : SheetReport) (e : Sheet) (s : State) : Prop where
  up : down s = false
  idle : linkIdle s
  legal : reportLegal r = true
  sheet : sheetAt s r.sheet = some e
  tag : e.tag = r.tag.toNat

theorem exec_deliveredOf {r : SheetReport} {e : Sheet} {s : State} (h : ReportOf r e s) :
    exec (.delivered r) s = .next (sendAnswer (reportAckFrame r.sheet r.tag false)
      (countSheet (removeSheet r.sheet (passDoses e.sides r (resolveClaim .delivered e s))))) := by
  rw [exec_delivered h.up h.idle h.legal, takeDelivered, reported_some h.sheet h.tag]

theorem exec_jammedOf {r : SheetReport} {e : Sheet} {s : State} (h : ReportOf r e s) :
    exec (.jammed 1 r) s = .next (sendAnswer (reportAckFrame r.sheet r.tag false)
      (removeSheet r.sheet (passDoses e.sides r (resolveClaim .jammed e s)))) := by
  rw [exec_jammed h.up h.idle (.inr rfl) h.legal, takeJammed, reported_some h.sheet h.tag]
  rfl

/-- The state with one more sheet counted for the rotation. -/
def counted (s : State) : State :=
  { s with stationUnit := { s.stationUnit with
    rotation := { s.stationUnit.rotation with counter := s.stationUnit.rotation.counter + 1 } } }

theorem countSheet_short {s : State} (h : s.stationUnit.rotation.counter + 1 < 2 * s.stationUnit.rotation.interval) :
    countSheet s = counted s :=
  if_neg fun hc => absurd (of_decide_eq_true hc) (Nat.not_le.mpr h)

theorem parts_counted (s : State) : onlyParts [.station] s (counted s) := by
  intro p hp
  cases p <;> simp at hp <;> rfl

/-- The parts that a report on a sheet of a job that is not CLOSING may change. -/
abbrev doseParts : List Part := [.sheet, .account, .retention, .job, .station, .notice, .random]

/-- A report whose doses are at one station leaves the stations and the notices as those doses leave them. -/
theorem report_meters {r : SheetReport} {e : Sheet} {st : Station} {d1 d2 : Nat} {ev : Instr} {s : State}
    (h : ReportOf r e s)
    (hev : ev = .jammed 1 r ∨ (ev = .delivered r ∧
      s.stationUnit.rotation.counter + 1 < 2 * s.stationUnit.rotation.interval))
    (hd1 : (r.doses1.get st).toNat = d1) (hd2 : (if e.sides = 2 then (r.doses2.get st).toNat else 0) = d2)
    (hothers : ∀ st', st' ≠ st → (r.doses1.get st').toNat = 0 ∧ (e.sides = 2 → (r.doses2.get st').toNat = 0))
    (hjob : ∀ k j, jobOfTag s e.tag = some (k, j) → j.state ≠ .closing) :
    ∃ t u, exec ev s = .next t ∧ u.stationUnit = s.stationUnit ∧ u.noticeUnit = s.noticeUnit ∧
      t.stationUnit.stations = (sideDoses st d1 d2 u).stationUnit.stations ∧
      t.noticeUnit = (sideDoses st d1 d2 u).noticeUnit ∧ onlyParts doseParts s t := by
  have hdoses (u : State) : passDoses e.sides r u = sideDoses st d1 d2 u := by
    rw [passDoses_single u hothers, passStation_eq, hd1, hd2]
  have hmeter (u : State) : onlyParts doseParts u (sideDoses st d1 d2 u) := by
    rw [← hdoses]
    exact parts_mono (parts_passDoses _ r u) (by decide)
  have hresolved {l : List Part} {u : State} (hclaim : onlyParts l s u) (hl : ∀ p, p ∈ l → p ∈ doseParts) :
      onlyParts doseParts s (removeSheet r.sheet (sideDoses st d1 d2 u)) :=
    parts_trans (parts_comp hclaim (hmeter u) hl fun _ h => h) (parts_mono (parts_removeSheet _ _) (by decide))
  rcases hev with rfl | ⟨rfl, hshort⟩
  · have hclaim := parts_resolveClaim_running (how := .jammed) hjob
    refine ⟨_, resolveClaim .jammed e s, exec_jammedOf h, hclaim .station (by decide), hclaim .notice (by decide), ?_⟩
    rw [hdoses]
    exact ⟨rfl, rfl, parts_trans (hresolved hclaim (by decide)) (parts_mono (parts_sendAnswer _ _) (by decide))⟩
  · have hclaim := parts_resolveClaim_running (how := .delivered) hjob
    have hrotation : (removeSheet r.sheet (sideDoses st d1 d2 (resolveClaim .delivered e s))).stationUnit.rotation =
        s.stationUnit.rotation := by
      rw [removeSheet_stationUnit, (onlyStation_sideDoses st d1 d2 _).2, hclaim .station (by decide)]
    refine ⟨_, resolveClaim .delivered e s, exec_deliveredOf h, hclaim .station (by decide),
      hclaim .notice (by decide), ?_⟩
    rw [hdoses, countSheet_short (by rw [hrotation]; exact hshort)]
    refine ⟨rfl, rfl, parts_trans ?_ (parts_mono (parts_sendAnswer _ _) (by decide))⟩
    exact parts_trans (hresolved hclaim (by decide)) (parts_mono (parts_counted _) (by decide))

end Sys2Proof.SheetAccounting

namespace Sys2Proof.SheetAccounting
open Sys2Proof.Machine

/-! SUPPORT. The slot that a full rotation interval takes (R80, R103, R124). -/

/-- The rotation has taken a slot: its counter is 0 and its pointer has moved on. -/
def turned (p : Nat) (s : State) : State :=
  { s with stationUnit := { s.stationUnit with
    rotation := { s.stationUnit.rotation with counter := 0, pointer := p } } }

/-- The pointer that follows the present one. -/
def nextPointer (s : State) : Nat :=
  if s.stationUnit.rotation.count ≤ s.stationUnit.rotation.pointer + 1 then 0 else s.stationUnit.rotation.pointer + 1

theorem getD_of_slot {slots : List (Option Station)} {n : Nat} {slot : Option Station} (h : slots[n]? = some slot) :
    slots.getD n none = slot := by simp [List.getD, h]

theorem takeSlot_none {s : State}
    (hslot : s.stationUnit.rotation.slots[s.stationUnit.rotation.pointer]? = some none) :
    takeSlot s = turned (nextPointer s) s := by
  simp only [takeSlot, getD_of_slot hslot]
  rfl

theorem takeSlot_some {s : State} {st : Station}
    (hslot : s.stationUnit.rotation.slots[s.stationUnit.rotation.pointer]? = some (some st)) :
    takeSlot s = recheck st (turned (nextPointer s) s) := by
  simp only [takeSlot, getD_of_slot hslot]
  rfl

theorem rotation_takeSlot {s : State} {slot : Option Station}
    (hslot : s.stationUnit.rotation.slots[s.stationUnit.rotation.pointer]? = some slot) :
    (takeSlot s).stationUnit.rotation = { s.stationUnit.rotation with counter := 0, pointer := nextPointer s } := by
  cases slot with
  | none => rw [takeSlot_none hslot]; rfl
  | some st => rw [takeSlot_some hslot, (onlyStation_recheck st _).2]; rfl

/-- A station that is neither GENUINE nor GRACE is passed over. -/
theorem recheck_passedOver {st : Station} {s : State} (hgenuine : (station s st).state ≠ .genuine)
    (hgrace : (station s st).state ≠ .grace) : recheck st s = s := if_neg (not_or.mpr ⟨hgenuine, hgrace⟩)

/-- A GENUINE or GRACE station enters RECHECKING, and then asks for its PROOF. -/
theorem recheck_asks {st : Station} {s : State}
    (h : (station s st).state = .genuine ∨ (station s st).state = .grace) :
    recheck st s = enqueue st .proof
      (raise .stationChanged (putStation st { station s st with state := .rechecking } s)) := by
  have hchange : (station s st).state ≠ .rechecking := by rcases h with h | h <;> simp [h]
  simp only [recheck, if_pos h, enterState_found hchange rfl]

/-- Whether a PROOF that starts asks for a nonce does not hang on the station's state. -/
theorem nonceAsked_congr {st : Station} {x y z : StationRecord} {s t : State} (hflight : y.inFlight = x.inFlight)
    (hrandom : t.randomSource = s.randomSource) : nonceAsked st y z t = nonceAsked st x z s := by
  simp only [nonceAsked, hflight, hrandom]

/-- What a re-check leaves: the PROOF merged, queued or started as R91 and R92 say. -/
theorem recheck_spec {st : Station} {z : StationRecord} {s : State}
    (hstate : (station s st).state = .genuine ∨ (station s st).state = .grace)
    (hqueue : (station s st).queue ∈ legalQueues)
    (hz : z = asked s.randomSource.health .proof { station s st with state := .rechecking }) :
    station (recheck st s) st = z ∧ (recheck st s).randomSource = nonceAsked st (station s st) z s ∧
    raised [.stationChanged] s (recheck st s) ∧ onlyParts [.station, .random, .notice] s (recheck st s) := by
  rw [recheck_asks hstate]
  generalize hu : raise .stationChanged (putStation st { station s st with state := .rechecking } s) = u
  have hrecord : station u st = { station s st with state := .rechecking } := by
    rw [← hu, station_raise, station_putStation_same]
  have hrandom : u.randomSource = s.randomSource := by rw [← hu]; rfl
  have hraised : raised [.stationChanged] s u := by rw [← hu]; exact raised_raise .stationChanged (putStation st _ s)
  have hparts : onlyParts [.station, .random, .notice] s u := by
    rw [← hu]
    exact parts_comp (parts_putStation st _ s) (parts_raise _ _) (by decide) (by decide)
  have hasks := parts_enqueue st .proof u
  obtain ⟨hstation, hsource⟩ := enqueue_spec st .proof u (by decide) (by rw [hrecord]; exact hqueue)
  rw [hrandom, hrecord, ← hz] at hstation
  rw [hrandom, hrecord, ← hz] at hsource
  refine ⟨hstation, hsource.trans (nonceAsked_congr rfl hrandom), ?_, ?_⟩
  · exact raised_trans hraised (raised_refl u _ (hasks .notice (by decide)))
  · exact parts_comp hparts hasks (fun _ h => h) (by decide)

theorem exec_rotationInterval {s : State} (hup : down s = false) :
    exec .rotationInterval s = .next (if 2 * s.stationUnit.rotation.interval ≤ s.stationUnit.rotation.counter
      then takeSlot s else s) := by
  refine congrArg Host.Outcome.next ((whenUp_of_up hup).trans ?_)
  simp only [intervalComplete, decide_eq_true_eq]

/-- The sheet that completes the interval has its slot taken in its own event (log 15). -/
theorem countSheet_full {s : State}
    (h : s.stationUnit.rotation.counter + 1 = 2 * s.stationUnit.rotation.interval) :
    countSheet s = takeSlot (counted s) := if_pos (decide_eq_true (Nat.le_of_eq h.symm))

/-- What a slot that names a station to be re-checked leaves. -/
theorem takeSlot_spec {st : Station} {z : StationRecord} {s : State}
    (hslot : s.stationUnit.rotation.slots[s.stationUnit.rotation.pointer]? = some (some st))
    (hstate : (station s st).state = .genuine ∨ (station s st).state = .grace)
    (hqueue : (station s st).queue ∈ legalQueues)
    (hz : z = asked s.randomSource.health .proof { station s st with state := .rechecking }) :
    station (takeSlot s) st = z ∧ (∀ st', st' ≠ st → station (takeSlot s) st' = station s st') ∧
    (takeSlot s).randomSource = nonceAsked st (station s st) z s ∧
    raised [.stationChanged] s (takeSlot s) ∧ onlyParts [.station, .random, .notice] s (takeSlot s) := by
  rw [takeSlot_some hslot]
  obtain ⟨hstation, hrandom, hraised, hparts⟩ := recheck_spec (s := turned (nextPointer s) s) hstate hqueue hz
  refine ⟨hstation, (onlyStation_recheck st (turned (nextPointer s) s)).1, hrandom, hraised, parts_trans ?_ hparts⟩
  intro p hp
  cases p <;> simp at hp <;> rfl

/-- Settles O39: the slot is taken by the row of its own, and by the DELIVERED that completes the interval. -/
theorem fullIntervalTakesItsSlot : Obligations.FullIntervalTakesItsSlot := by
  intro s p slot hup hslot hp
  have hpointer : nextPointer s = p := hp.symm
  have hexec := exec_rotationInterval hup
  refine ⟨fun hshort => ?_, fun hfull hpassed => ?_, fun st z hfull hst hstate hqueue hz => ?_,
    fun r e hidle hlegal he htag hfull => ?_⟩
  · rw [hexec, if_neg (by omega)]
  · rw [hexec, if_pos hfull]
    cases slot with
    | none => rw [takeSlot_none hslot, hpointer]; rfl
    | some st =>
      obtain ⟨hgenuine, hgrace⟩ := hpassed st rfl
      rw [takeSlot_some hslot, hpointer, recheck_passedOver (s := turned p s) hgenuine hgrace]
      rfl
  · rw [if_pos hfull] at hexec
    subst hst
    obtain ⟨hstation, hothers, hrandom, hraised, hparts⟩ := takeSlot_spec hslot hstate hqueue hz
    exact ⟨_, hexec, hstation, hothers, by rw [rotation_takeSlot hslot, hpointer], hrandom, hraised, hparts⟩
  · have hreport : ReportOf r e s := ⟨hup, hidle, hlegal, he, htag⟩
    have hclaim := parts_resolveClaim .delivered e s
    generalize hu : removeSheet r.sheet (passDoses e.sides r (resolveClaim .delivered e s)) = u
    have hrotation : u.stationUnit.rotation = s.stationUnit.rotation := by
      rw [← hu, removeSheet_stationUnit, rotation_passDoses, hclaim .station (by decide)]
    have hexec' := exec_deliveredOf hreport
    rw [hu, countSheet_full (by rw [hrotation]; exact hfull)] at hexec'
    have hslot' : (counted u).stationUnit.rotation.slots[(counted u).stationUnit.rotation.pointer]? = some slot := by
      rw [← hslot, ← hrotation]
      rfl
    have hpointer' : nextPointer (counted u) = p := by
      rw [← hpointer, nextPointer, nextPointer, ← hrotation]
      rfl
    refine ⟨_, hexec', ?_, fun st z hst hnone hstate hqueue hz => ?_⟩
    · rw [sendAnswer_stationUnit, rotation_takeSlot hslot', hpointer', ← hrotation]
      rfl
    · have hsame : u.stationUnit = s.stationUnit ∧ u.randomSource = s.randomSource := by
        rw [← hu, passDoses_none _ fun st' => ⟨(hnone st').1, fun _ => (hnone st').2⟩]
        exact ⟨hclaim .station (by decide), hclaim .random (by decide)⟩
      have hrecord : station (counted u) st = station s st := by
        rw [← station_congr hsame.1]
        rfl
      subst hst
      obtain ⟨hstation, -, hrandom, -, -⟩ := takeSlot_spec (z := z) hslot' (by rw [hrecord]; exact hstate)
        (by rw [hrecord]; exact hqueue) (by rw [hrecord, hz, ← hsame.2]; rfl)
      refine ⟨hstation, hrandom.trans ?_⟩
      rw [hrecord]
      exact nonceAsked_congr rfl hsame.2

end Sys2Proof.SheetAccounting

namespace Sys2Proof.SheetAccounting
open Sys2Proof.Machine

/-! SUPPORT. What a report's doses leave of the whole state, and the statement about them (R74, R75, R77, R111 to
R115). -/

theorem acceptsWrite_of {q : StationState} (h : q = .genuine ∨ q = .rechecking ∨ q = .grace ∨ q = .exhausted) :
    q.acceptsWrite = true := by
  rcases h with h | h | h | h <;> rw [h] <;> rfl

/-- Notices are seen in the notice unit alone. -/
theorem raised_seen {ns : List Notice} {s u m t : State} (h : raised ns u m) (hs : u.noticeUnit = s.noticeUnit)
    (ht : t.noticeUnit = m.noticeUnit) : raised ns s t := by
  unfold raised at h ⊢
  rwa [ht, ← hs]

theorem runsLow_iff (x : StationRecord) (dose rated : Nat) :
    runsLow x dose rated = true ↔ x.lowRaised = false ∧ 20 * (x.remaining - dose) ≤ rated := by
  simp [runsLow]

/-- The notice of the low yield, as its statement has it. -/
theorem lowNotice_eq (x : StationRecord) (dose rated : Nat) :
    (if runsLow x dose rated then [Notice.yieldLow] else []) =
      if x.lowRaised = false ∧ 20 * (x.remaining - dose) ≤ rated then [Notice.yieldLow] else [] := by
  simp only [runsLow_iff]

theorem sideDoses_first {st : Station} {dose : Nat} (h : dose ≠ 0) (s : State) :
    sideDoses st dose 0 s = meterDose st dose s := sideDose_pos h s

/-! ### A jammed sheet that was imaged, with one dose (R77) -/

/-- The station of a report whose claim and dose leave its record so. -/
theorem stationBecomes_acked {st : Station} {z : StationRecord} {f : List Byte} {n : BitVec 16} {s u m : State}
    (hu : onlyParts [.job] s u) (hm : m.stationUnit = (putStation st z u).stationUnit) :
    stationBecomes st z s (sendAnswer f (removeSheet n m)) := by
  have hsame : u.stationUnit = s.stationUnit := hu .station (by decide)
  refine stationBecomes_of_put ?_
  rw [sendAnswer_stationUnit, removeSheet_stationUnit, hm]
  simp only [putStation, hsame]

/-- The parts that a report changes: the job and the link, and those that its dose changes. -/
theorem parts_acked {l : List Part} {f : List Byte} {n : BitVec 16} {s u m : State} (hu : onlyParts [.job] s u)
    (hm : onlyParts (.sheet :: .job :: l) u m) :
    onlyParts (.sheet :: .job :: l) s (sendAnswer f (removeSheet n m)) := by
  have hsheet : ∀ p, p ∈ [Part.sheet] → p ∈ .sheet :: .job :: l := by simp
  have hjob : ∀ p, p ∈ [Part.job] → p ∈ .sheet :: .job :: l := by simp
  refine parts_trans (parts_mono hu hjob) (parts_trans hm ?_)
  exact parts_trans (parts_mono (parts_removeSheet n m) hsheet) (parts_mono (parts_sendAnswer f _) hsheet)

/-- A record and a notice change the station table and the notices. -/
theorem parts_noted (b : Bool) (n : Notice) (st : Station) (z : StationRecord) (s : State) :
    onlyParts [.sheet, .job, .station, .notice] s (raiseIf b n (putStation st z s)) :=
  parts_comp (parts_putStation st z s) (parts_raiseIf _ _ _) (by decide) (by decide)

/-- The notice of a station's loss, and its stop request, change the jobs and the notices. -/
theorem parts_raise_lost {l : List Part} (n : Notice) (st : Station) {s u : State} (h : onlyParts l s u)
    (hl : ∀ p, p ∈ [Part.job, Part.notice] → p ∈ l) : onlyParts l s (raise n (stationLost st u)) :=
  parts_trans h (parts_mono (parts_trans (parts_stationLost st u) (parts_mono (parts_raise n _) (by decide))) hl)

/-- Once a station is lost, no job that has used it may commit (R45). -/
theorem stationLost_stops {st : Station} {k : Nat} {j : Job} {s : State}
    (hfind : Table.find (stationLost st s).jobUnit.jobs k = some j) (hused : j.stationsUsed.get st = true) :
    j.state ≠ .ready ∧ j.state ≠ .active := by
  rw [stationLost, find_stopJobs] at hfind
  obtain ⟨before, -, hbefore⟩ := Option.map_eq_some_iff.mp hfind
  unfold stoppedFor at hbefore
  split at hbefore
  · rw [← hbefore]
    exact ⟨by simp, by simp⟩
  · rename_i hnot
    rw [hbefore] at hnot
    simp only [hused, Bool.and_true, Job.running, Bool.or_eq_true, beq_iff_eq, not_or] at hnot
    exact hnot

theorem satAdd_one {n : Nat} (h : n < 255) : satAdd 255 n 1 = n + 1 := Nat.min_eq_right h

/-- A jammed simplex sheet that was imaged, of a job that is not CLOSING, whose one dose is at an idle station. -/
structure JammedDose (r : SheetReport) (e : Sheet) (st : Station) (d : Nat) (x : StationRecord) (c : Cartridge)
    (s : State) : Prop where
  report : ReportOf r e s
  simplex : e.sides = 1
  dose : (r.doses1.get st).toNat = d
  pos : 1 ≤ d
  others : ∀ st', st' ≠ st → (r.doses1.get st').toNat = 0
  job : ∀ k j, jobOfTag s e.tag = some (k, j) → j.state ≠ .closing
  record : station s st = x
  cartridge : x.cartridge = some c
  queue : x.queue = []
  flight : x.inFlight = none

/-- The state on which the dose is metered: the job's claim has been made, and the station and the notices are as they
were. -/
theorem JammedDose.meters {r : SheetReport} {e : Sheet} {st : Station} {d : Nat} {x : StationRecord} {c : Cartridge}
    {s : State} (h : JammedDose r e st d x c s) :
    ∃ u, onlyParts [.job] s u ∧ station u st = x ∧ u.noticeUnit = s.noticeUnit ∧ exec (.jammed 1 r) s =
      .next (sendAnswer (reportAckFrame r.sheet r.tag false) (removeSheet r.sheet (meterDose st d u))) := by
  have hsimplex : ¬ e.sides = 2 := by rw [h.simplex]; decide
  have hdose := h.pos
  have hclaim : onlyParts [.job] s (resolveClaim .jammed e s) := parts_resolveClaim_running (how := .jammed) h.job
  refine ⟨resolveClaim .jammed e s, hclaim, (station_congr (hclaim .station (by decide)) st).trans h.record,
    hclaim .notice (by decide), ?_⟩
  rw [exec_jammedOf h.report, passDoses_single _ fun st' hst => ⟨h.others st' hst, fun h2 => absurd h2 hsimplex⟩,
    passStation_eq, h.dose, if_neg hsimplex, sideDoses_first (by omega)]

section
variable {r : SheetReport} {e : Sheet} {st : Station} {d : Nat} {x : StationRecord} {c : Cartridge} {s : State}

theorem jammed_small (h : JammedDose r e st d x c s) (hleft : d < x.remaining) (hfew : x.unwritten + d < 20000) :
    ∃ t, exec (.jammed 1 r) s = .next t ∧ stationBecomes st (spend x d c.rated) s t ∧
      (x.lowRaised = false → 20 * (x.remaining - d) ≤ c.rated → raised [.yieldLow] s t) ∧
      ((x.lowRaised = true ∨ c.rated < 20 * (x.remaining - d)) → t.noticeUnit = s.noticeUnit) ∧
      onlyParts [.sheet, .job, .station, .notice] s t := by
  obtain ⟨u, hclaim, hu, hnotices, hexec⟩ := h.meters
  rw [meterDose_small hu h.cartridge hleft hfew] at hexec
  have hraised := raised_spent st d c.rated u
  rw [hu] at hraised
  refine ⟨_, hexec, ?_, fun hfirst hlow => ?_, fun hnot => ?_, parts_acked hclaim (parts_noted _ _ st _ u)⟩
  · rw [← hu]
    exact stationBecomes_acked hclaim (stationUnit_raiseIf ..)
  · rw [if_pos ((runsLow_iff ..).mpr ⟨hfirst, hlow⟩)] at hraised
    exact raised_seen hraised hnotices rfl
  · have hquiet : runsLow (station u st) d c.rated = false := by
      rw [hu]
      refine Bool.eq_false_iff.mpr fun hlow => ?_
      obtain ⟨hfirst, hfew'⟩ := (runsLow_iff ..).mp hlow
      rcases hnot with h | h
      · simp [h] at hfirst
      · omega
    rw [sendAnswer_noticeUnit, removeSheet_noticeUnit, spent, hquiet]
    exact hnotices

theorem jammed_toGrace (h : JammedDose r e st d x c s) (hlast : LastDose x d) (hgrace : x.graceUsed < x.graceAllowance) :
    ∃ t, exec (.jammed 1 r) s = .next t ∧ stationBecomes st (ranOut x .grace) s t ∧
      raised (if x.lowRaised then [.stationChanged] else [.yieldLow, .stationChanged]) s t ∧
      onlyParts [.sheet, .job, .station, .notice] s t := by
  obtain ⟨u, hclaim, hu, hnotices, hexec⟩ := h.meters
  rw [meterDose_toGrace hu h.cartridge hlast hgrace] at hexec
  refine ⟨_, hexec, stationBecomes_acked hclaim (stationUnit_raiseIf ..), ?_, parts_acked hclaim ?_⟩
  · have hraised := raised_trans (raised_raiseIf (!x.lowRaised) .yieldLow (putStation st (ranOut x .grace) u))
      (raised_raise .stationChanged _)
    refine raised_seen (raised_congr hraised fun n => ?_) hnotices rfl
    cases x.lowRaised <;> rfl
  · exact parts_trans (parts_noted _ _ st _ u) (parts_mono (parts_raise _ _) (by decide))

theorem jammed_toExhausted (h : JammedDose r e st d x c s) (hlast : LastDose x d)
    (hgrace : x.graceAllowance ≤ x.graceUsed) :
    ∃ t, exec (.jammed 1 r) s = .next t ∧ stationBecomes st (ranOut x .exhausted) s t ∧
      (∀ k j, Table.find t.jobUnit.jobs k = some j → j.stationsUsed.get st = true →
        j.state ≠ .ready ∧ j.state ≠ .active) ∧
      onlyParts [.sheet, .job, .station, .notice] s t := by
  obtain ⟨u, hclaim, hu, -, hexec⟩ := h.meters
  rw [meterDose_toExhausted hu h.cartridge hlast hgrace] at hexec
  refine ⟨_, hexec, stationBecomes_acked hclaim ?_, fun k j hfind hused => stationLost_stops hfind hused,
    parts_acked hclaim (parts_raise_lost _ st (parts_noted _ _ st _ u) (by decide))⟩
  exact (stationUnit_stationLost st _).trans (stationUnit_raiseIf ..)

/-- A grace side of a GRACE station: counted, or the one that exhausts it. -/
theorem jammed_graceSide (h : JammedDose r e st d x c s) (hs : x.state = .grace) (hzero : x.remaining = 0)
    (hlow : x.lowRaised = true) (hfew : x.unwritten < 20000) (hused : x.graceUsed < 255) :
    (x.graceUsed + 1 < x.graceAllowance →
      ∃ t, exec (.jammed 1 r) s = .next t ∧ stationBecomes st { x with graceUsed := x.graceUsed + 1 } s t ∧
        onlyParts [.sheet, .job, .station] s t) ∧
    (x.graceAllowance ≤ x.graceUsed + 1 →
      ∃ t, exec (.jammed 1 r) s = .next t ∧
        stationBecomes st { x with graceUsed := x.graceUsed + 1, state := .exhausted } s t ∧
        onlyParts [.sheet, .job, .station, .notice] s t) := by
  obtain ⟨u, hclaim, hu, -, hexec⟩ := h.meters
  have hbase : x.aboveBase < 20000 := by rw [aboveBase_idle h.flight]; exact hfew
  rw [← satAdd_one hused]
  refine ⟨fun hmore => ?_, fun hend => ?_⟩
  · rw [meterDose_graceCounts d hu h.cartridge hzero hlow hbase (.inl ⟨hs, hmore⟩)] at hexec
    exact ⟨_, hexec, stationBecomes_acked hclaim rfl,
      parts_acked hclaim (parts_mono (parts_putStation st _ u) (by decide))⟩
  · rw [meterDose_graceEnds d hu h.cartridge hzero hlow hbase hs hend] at hexec
    exact ⟨_, hexec, stationBecomes_acked hclaim (stationUnit_stationLost st _),
      parts_acked hclaim (parts_raise_lost _ st (parts_mono (parts_putStation st _ u) (by decide)) (by decide))⟩

end

/-- Settles O38: a report's doses come to one record of their station, and the rest is what its claim leaves. -/
theorem doseIsMeteredAgainstTheCartridge : Obligations.DoseIsMeteredAgainstTheCartridge := by
  refine ⟨?_, ?_⟩
  · intro s r e st d1 d2 x ev hup hidle hlegal he htag hev hd1 hd2 hsome hothers hjob hx
    obtain ⟨t, u, hexec, hstations, hnotices, htable, htold, hparts⟩ :=
      report_meters ⟨hup, hidle, hlegal, he, htag⟩ hev hd1 hd2
        (fun st' hst => (hothers st' hst).imp id fun h _ => h) hjob
    have hread (st' : Station) : station t st' = station (sideDoses st d1 d2 u) st' := by
      simp only [station, htable]
    have hu : station u st = x := (station_congr hstations st).trans hx
    refine ⟨t, hexec, fun st' hst => ?_, hparts, fun hnone => ?_, fun c hc => ⟨fun hleft hfew => ?_,
      fun hgenuine hflight hqueue hzero hgrace hused => ⟨fun hall => ?_, fun hleft hall hfew => ?_⟩,
      fun hrechecking hzero hlow hfew => ?_, fun h2 hleft hstate => ?_⟩⟩
    · rw [hread, (onlyStation_sideDoses st d1 d2 u).1 st' hst, station_congr hstations]
    · rw [hread, htold, sideDoses_noCartridge d1 d2 (by rw [hu]; exact hnone)]
      exact ⟨hu, hnotices⟩
    · obtain ⟨hrecord, hraised⟩ := sideDoses_small hu hc hsome hleft hfew
      rw [lowNotice_eq] at hraised
      exact ⟨by rw [hread, hrecord, spend_partial c.rated (Nat.le_of_lt hleft)], raised_seen hraised hnotices htold⟩
    · rw [hread, sideDoses_toGrace hu hc ⟨hgenuine, hflight, hqueue, hzero, hall⟩ hgrace hused]
      rfl
    · rw [hread, sideDoses_toGrace_second hu hc ⟨hgenuine, hflight, hqueue, hzero, hall⟩ hleft hfew hgrace]
      rfl
    · rw [hread, sideDoses_rechecking hu hc hsome hrechecking hzero hlow hfew]
    · subst h2
      have haccepts := acceptsWrite_of hstate
      have hspend := spend_partial c.rated (Nat.le_of_lt hleft)
      rw [hread, sideDoses_first (by omega)]
      refine ⟨fun hflight hqueue hdue => ?_, fun f base hflight hbase => ?_⟩
      · rw [meterDose_starts hu hc hleft haccepts hflight hqueue hdue, hspend]
        rfl
      · have hbaseOf : base = baseOf f := by
          rw [hbase]
          obtain ⟨exchange, attempt⟩ := f
          cases exchange <;> rfl
        rw [meterDose_behind hu hc hleft haccepts hflight, hspend, hbaseOf]
  · intro s r e st d x c hup hidle hlegal he htag hsides hd hpos hothers hjob hx hc hqueue hflight
    have h : JammedDose r e st d x c s :=
      ⟨⟨hup, hidle, hlegal, he, htag⟩, hsides, hd, hpos, hothers, hjob, hx, hc, hqueue, hflight⟩
    refine ⟨fun hleft hfew => ?_, fun hgenuine hzero hall => jammed_toGrace h ⟨hgenuine, hflight, hqueue, hzero, hall⟩,
      fun hgenuine hzero hall => jammed_toExhausted h ⟨hgenuine, hflight, hqueue, hzero, hall⟩, jammed_graceSide h⟩
    rw [← spend_partial c.rated (Nat.le_of_lt hleft)]
    exact jammed_small h hleft hfew

end Sys2Proof.SheetAccounting
